-- ==== Sys2Proof/Word.lean ====
section
/-! DEFINITION. The word types of FXPIPE and the small fixed collections its registers come in.
No byte-level view of any register exists (20_memory R63): every item is one whole word. -/

namespace Sys2Proof

/-- `F` (R12): one IEEE 754 binary32 number, held as its 32-bit pattern. Its arithmetic is
`Sys2Proof/Machine/Float.lean`. -/
abbrev F := BitVec 32

/-- `T` (R16): an unsigned 32-bit count of milliseconds. -/
abbrev Time := BitVec 32

/-- The 8-bit command word `CW` (R80). -/
abbrev CommandWord := BitVec 8

/-- `idx` (R88): a patch index 0..3 within a bank, 2-bit unsigned. -/
abbrev Index := BitVec 2

/-- A patch number `p = {bank, index}` (R88), 0..7. -/
abbrev PatchNo := BitVec 3

/-- `bank` (R25, R88). -/
inductive Bank where
  | a  -- the reverb bank (D7)
  | b  -- the delay bank (D7)
  deriving DecidableEq, Repr, Inhabited

/-- `lvl` (R25, R88): the UI level. -/
inductive Level where
  | bank   -- LEVEL_BANK: choosing between the two banks
  | patch  -- LEVEL_PATCH: cycling the four patches of the committed bank
  deriving DecidableEq, Repr, Inhabited

/-- A control channel (R22, R88): 0 Mix, 1 Decay/Time, 2 Tone/Feedback. -/
inductive Chan where
  | mix
  | decay
  | tone
  deriving DecidableEq, Repr, Inhabited

/-- A channel that has a CV input: 1 or 2 only (R22, C6). -/
inductive CvChan where
  | decay
  | tone
  deriving DecidableEq, Repr, Inhabited

/-- A CV channel as one of the three control channels. -/
def CvChan.toChan : CvChan → Chan
  | .decay => .decay
  | .tone => .tone

/-- A slot 0..3 of the parameter table (`N_SLOT` = 4, R8). -/
inductive Slot where
  | s0
  | s1
  | s2
  | s3
  deriving DecidableEq, Repr, Inhabited

/-- An audio channel `c` in {L, R} (R31). -/
inductive Side where
  | left
  | right
  deriving DecidableEq, Repr, Inhabited

/-- The parties that act on FXPIPE (R66): the two agents and the host. -/
inductive Agent where
  | control
  | audio
  | host
  deriving DecidableEq, Repr, Inhabited

/-- One item per control channel 0..2. -/
structure PerChan (α : Type) where
  mix : α
  decay : α
  tone : α
  deriving DecidableEq, Repr, Inhabited

/-- One item per CV channel 1..2; channel 0 has none (R22). -/
structure PerCv (α : Type) where
  decay : α
  tone : α
  deriving DecidableEq, Repr, Inhabited

/-- One item per slot 0..3. -/
structure PerSlot (α : Type) where
  s0 : α
  s1 : α
  s2 : α
  s3 : α
  deriving DecidableEq, Repr, Inhabited

/-- One item per audio channel. -/
structure PerSide (α : Type) where
  left : α
  right : α
  deriving DecidableEq, Repr, Inhabited

variable {α β : Type}

/-- The item of channel `ch`. -/
def PerChan.get (v : PerChan α) : Chan → α
  | .mix => v.mix
  | .decay => v.decay
  | .tone => v.tone

/-- `v` with the item of channel `ch` replaced. -/
def PerChan.set (v : PerChan α) (ch : Chan) (x : α) : PerChan α :=
  match ch with
  | .mix => { v with mix := x }
  | .decay => { v with decay := x }
  | .tone => { v with tone := x }

/-- The item of CV channel `ch`. -/
def PerCv.get (v : PerCv α) : CvChan → α
  | .decay => v.decay
  | .tone => v.tone

/-- `v` with the item of CV channel `ch` replaced. -/
def PerCv.set (v : PerCv α) (ch : CvChan) (x : α) : PerCv α :=
  match ch with
  | .decay => { v with decay := x }
  | .tone => { v with tone := x }

/-- The item of slot `j`. -/
def PerSlot.get (v : PerSlot α) : Slot → α
  | .s0 => v.s0
  | .s1 => v.s1
  | .s2 => v.s2
  | .s3 => v.s3

/-- The collection whose item at slot `j` is `f j`. -/
def PerSlot.ofFn (f : Slot → α) : PerSlot α :=
  ⟨f .s0, f .s1, f .s2, f .s3⟩

/-- The item of audio channel `c`. -/
def PerSide.get (v : PerSide α) : Side → α
  | .left => v.left
  | .right => v.right

end Sys2Proof
end

