-- ==== Sys2Proof/Syntax.lean ====
section
/-! DEFINITION. The operations of FXPIPE, one constructor per legal command word (30_encoding R85):
one per row of `spec/opcode_table.json`. Operands other than the channel arrive whole on ports (R81,
R86), so no constructor carries one; the channel is part of the word and so of the constructor. The
internal operations `EVSHORT`, `EVLONG` and `COMMIT` have no command word (R87) and are no
constructors. -/

namespace Sys2Proof

/-- The fourteen operations a command word can spell (R82, R85). -/
inductive Instr where
  | nop     -- NOP, 0x00
  | rst     -- RST, 0x01
  | potsm0  -- POTSM 0, 0x02
  | potsm1  -- POTSM 1, 0x12
  | potsm2  -- POTSM 2, 0x22
  | cvsm1   -- CVSM 1, 0x13
  | cvsm2   -- CVSM 2, 0x23
  | tko0    -- TKO 0, 0x04
  | tko1    -- TKO 1, 0x14
  | tko2    -- TKO 2, 0x24
  | tapu    -- TAPU, 0x05
  | btnu    -- BTNU, 0x06
  | blk     -- BLK, 0x08
  | smp     -- SMP, 0x09
  deriving DecidableEq, Repr, Inhabited

/-- All fourteen operations, in the table's order. -/
def Instr.all : List Instr :=
  [.nop, .rst, .potsm0, .potsm1, .potsm2, .cvsm1, .cvsm2, .tko0, .tko1, .tko2, .tapu, .btnu, .blk,
    .smp]

end Sys2Proof
end

