-- ==== Sys2Proof/Decode.lean ====
section
/-! DEFINITION. The decoder and the encoder of the 8-bit command word (30_encoding R80 to R86). The
decoder is total: 14 of the 256 words spell an operation, the other 242 are rejected by name (R84). -/

namespace Sys2Proof

/-- Why a command word spells no operation (R84). -/
inductive DecodeError where
  | rsvNotZero       -- rsv != 00
  | opReserved       -- op in 0x7, 0xA to 0xF
  | channelNotTaken  -- ch != 0 on an operation that takes no channel
  | channelThree     -- ch = 3 on a channel operation
  | cvsmZero         -- CVSM 0: channel 0 has no CV input
  deriving DecidableEq, Repr

/-- The field `op`, bits 3:0 (R80). -/
def cwOp (cw : CommandWord) : BitVec 4 := cw.extractLsb' 0 4

/-- The field `ch`, bits 5:4 (R80). -/
def cwCh (cw : CommandWord) : BitVec 2 := cw.extractLsb' 4 2

/-- The field `rsv`, bits 7:6 (R80). -/
def cwRsv (cw : CommandWord) : BitVec 2 := cw.extractLsb' 6 2

/-- An operation that takes no channel: `ch` must be 0 (R82). -/
def withoutChannel (ch : BitVec 2) (i : Instr) : Except DecodeError Instr :=
  if ch = 0 then .ok i else .error .channelNotTaken

/-- The operation of each code (R82), `rsv` being 00. -/
def decodeOp (op : BitVec 4) (ch : BitVec 2) : Except DecodeError Instr :=
  match op.toNat with
  | 0x0 => withoutChannel ch .nop
  | 0x1 => withoutChannel ch .rst
  | 0x2 =>
    match ch.toNat with
    | 0 => .ok .potsm0
    | 1 => .ok .potsm1
    | 2 => .ok .potsm2
    | _ => .error .channelThree
  | 0x3 =>
    match ch.toNat with
    | 0 => .error .cvsmZero
    | 1 => .ok .cvsm1
    | 2 => .ok .cvsm2
    | _ => .error .channelThree
  | 0x4 =>
    match ch.toNat with
    | 0 => .ok .tko0
    | 1 => .ok .tko1
    | 2 => .ok .tko2
    | _ => .error .channelThree
  | 0x5 => withoutChannel ch .tapu
  | 0x6 => withoutChannel ch .btnu
  | 0x8 => withoutChannel ch .blk
  | 0x9 => withoutChannel ch .smp
  | _ => .error .opReserved

/-- The operation a command word spells, or why it spells none (R80, R82, R84). -/
def decode (cw : CommandWord) : Except DecodeError Instr :=
  if cwRsv cw = 0 then decodeOp (cwOp cw) (cwCh cw) else .error .rsvNotZero

/-- The operation codes of R82. -/
def opOf : Instr → BitVec 4
  | .nop => 0x0
  | .rst => 0x1
  | .potsm0 | .potsm1 | .potsm2 => 0x2
  | .cvsm1 | .cvsm2 => 0x3
  | .tko0 | .tko1 | .tko2 => 0x4
  | .tapu => 0x5
  | .btnu => 0x6
  | .blk => 0x8
  | .smp => 0x9

/-- The channel field of each operation, 0 where it takes none (R82). -/
def chOf : Instr → BitVec 2
  | .potsm1 | .cvsm1 | .tko1 => 1
  | .potsm2 | .cvsm2 | .tko2 => 2
  | .nop | .rst | .potsm0 | .tko0 | .tapu | .btnu | .blk | .smp => 0

/-- The command word of an operation: `{00, ch, op}` (R80). -/
def encode (i : Instr) : CommandWord := 0#2 ++ chOf i ++ opOf i

/-- The instruction the decoder reads from the opcode table's `nbits` bits `w`: every row has 8 bits and
every command that length (R86). -/
def decodeTableWord (nbits w : Nat) : Option Instr :=
  if nbits = 8 ∧ w < 2 ^ 8 then (decode (BitVec.ofNat 8 w)).toOption else none

end Sys2Proof
end

