-- ==== Sys2Proof/Config.lean ====
section
/-! DEFINITION. What an implementation of FXPIPE fixes: the parameters of 00_scope R8 that the spec
leaves OPEN (and `DELAY_BANK`, kept a parameter by R89), and the free values of the model. The values
that R8 fixes are in `Sys2Proof/Machine/Constants.lean`; the constraints of R8, R9, R15, R93, R193 and
R206, and the machine's own configuration, are in `Sys2Proof/WellFormed.lean`. -/

namespace Sys2Proof

/-- One entry `PARAM_LUT[p][j]` in the layout of R92: the header byte `H` and four F words. -/
structure Descriptor where
  h : BitVec 8
  lo : F
  hi : F
  cmin : F
  cmax : F
  deriving DecidableEq, Repr, Inhabited

/-- `PRIM` (R8, R30, R205): all memory of the attached DSP unit, opaque to FXPIPE. The spec leaves the
type OPEN; the model holds it as a finite sequence of 32-bit words, into which any finite memory can be
written (DESIGN CHOICE, safe: log 4). -/
structure Prim where
  words : List (BitVec 32)
  deriving DecidableEq, Repr, Inhabited

/-- What one per-sample call of the DSP unit returns (R205): the wet pair and its next memory. -/
structure DspResult where
  wetL : F
  wetR : F
  prim : Prim
  deriving DecidableEq, Repr, Inhabited

/-- The OPEN parameters of R8, by the spec's names. They are arguments of the model, not state (R35):
nothing changes them after reset (R8, D32). -/
structure Params where
  /-- `DELAY_BANK` (R89). -/
  delayBank : Bank
  /-- `SAMPLE_RATE`. -/
  sampleRate : F
  /-- `BLOCK_SIZE`. -/
  blockSize : Nat
  /-- `CV_ALPHA_RISE[ch]`. -/
  cvAlphaRise : PerCv F
  /-- `CV_ALPHA_FALL[ch]`. -/
  cvAlphaFall : PerCv F
  /-- `TAP_HIGH`, volts. -/
  tapHigh : F
  /-- `TAP_LOW`, volts. -/
  tapLow : F
  /-- `FADE_LEN`, samples. -/
  fadeLen : Nat
  /-- `WARMUP_LEN`, samples. -/
  warmupLen : Nat
  /-- `NEEDS_WARMUP[p]` (R122). -/
  needsWarmup : PatchNo → Bool
  /-- `PARAM_LUT[p][j]` (R92). -/
  lut : PatchNo → Slot → Descriptor
  /-- `DLY_BETA` (R199). -/
  dlyBeta : F
  /-- `DC_R` (R231). -/
  dcR : F
  /-- `LP_A` (R232). -/
  lpA : F
  /-- `EPS_DEN` (R192). -/
  epsDen : F
  /-- `INIT_POT[ch]` (R36). -/
  initPot : PerChan F
  /-- `INIT_CV[ch]` (R36). -/
  initCv : PerCv F
  /-- `POWF` (R15). -/
  powf : F → F → F
  /-- `DSP_RESET` (R205). -/
  dspReset : Prim
  /-- `DSP_STEP(p, nat, g_w, inL, inR, s)` (R205). -/
  dspStep : PatchNo → PerSlot F → F → F → F → Prim → DspResult

/-- The binary32 operations that can yield a NaN. -/
inductive FloatOp where
  | add
  | mul
  | div
  deriving DecidableEq, Repr, Inhabited

/-- FREE VALUE (log 2): the sign and the 22 low fraction bits of the NaN that an operation delivers for
the given operands. IEEE 754, which R12 names, fixes that the result is a NaN and not which one. -/
opaque Config.nanPayload : FloatOp → F → F → BitVec 23

/-- FREE VALUE (log 3): which of the agents that present an operation at once goes first, at the given
turn. R68: "either may go first". -/
opaque Config.grant : Nat → Nat

end Sys2Proof
end

