-- ==== Sys2Proof/Machine/Constants.lean ====
section
/-! DEFINITION. The parameters of 00_scope R8 that the source or a decision fixes (log 13). F values are the
binary32 patterns that 95_test_vectors.md section 2 lists for the decimal literals of R8. -/

namespace Sys2Proof.Machine

/-- `+0.0`. -/
def fZero : F := 0x00000000#32

/-- `1.0`. -/
def fOne : F := 0x3F800000#32

/-- `5.0` (R106). -/
def fFive : F := 0x40A00000#32

/-- `10.0` (R106). -/
def fTen : F := 0x41200000#32

/-- `1000.0` (R136, R194). -/
def fThousand : F := 0x447A0000#32

/-- `POT_ALPHA` = 0.02 (R8, D12). -/
def potAlpha : F := 0x3CA3D70A#32

/-- `EPS_ON[ch]` = 0.015 for both channels (R8, R107, D14). -/
def epsOn : CvChan → F
  | .decay => 0x3C75C28F#32
  | .tone => 0x3C75C28F#32

/-- `EPS_OFF[ch]` = 0.030 for both channels (R8, R107, D14). -/
def epsOff : CvChan → F
  | .decay => 0x3CF5C28F#32
  | .tone => 0x3CF5C28F#32

/-- `OUT_LIMIT` = 1.2 (R8, R233, D28). -/
def outLimit : F := 0x3F99999A#32

/-- `-OUT_LIMIT`. -/
def outLimitNeg : F := 0xBF99999A#32

/-- `0.70`, the low end of the source's decay range (R193 a). -/
def decayLo : F := 0x3F333333#32

/-- `0.98`, the high end of the source's decay range (R193 a). -/
def decayHi : F := 0x3F7AE148#32

/-- `TAP_MIN_MS` (R8). -/
def tapMinMs : Nat := 50

/-- `TAP_MAX_MS` (R8). -/
def tapMaxMs : Nat := 2000

/-- `TAP_EXPIRE_MS` (R8). -/
def tapExpireMs : Nat := 1800

/-- `DEBOUNCE_MS` (R8). -/
def debounceMs : Nat := 25

/-- `LONG_MS` (R8). -/
def longMs : Nat := 800

end Sys2Proof.Machine
end

