-- ==== Sys2Proof/Machine/Enums.lean ====
section
/-! DEFINITION. The bit patterns of the enumerations (30_encoding R88) and of the lookup descriptor's
header byte (R92). -/

namespace Sys2Proof.Machine

/-- bank A is 0, bank B is 1 (R88). -/
def bankBit : Bank → BitVec 1
  | .a => 0#1
  | .b => 1#1

/-- LEVEL_BANK is 0, LEVEL_PATCH is 1 (R88). -/
def levelBit : Level → BitVec 1
  | .bank => 0#1
  | .patch => 1#1

/-- A flag as one bit: 1 is true (R10). -/
def flagBit : Bool → BitVec 1
  | false => 0#1
  | true => 1#1

/-- The patch number `p = {bank, index}` = 4 × bank + index (R88). -/
def patchNo (bank : Bank) (index : Index) : PatchNo := bankBit bank ++ index

/-- The channel number of a 2-bit field; 3 names no channel (R88, R92). -/
def chanOfBits : BitVec 2 → Option Chan
  | 0 => some .mix
  | 1 => some .decay
  | 2 => some .tone
  | _ => none

/-- The mapping kind of a descriptor (R92). -/
inductive MapKind where
  | lin
  | exp
  deriving DecidableEq, Repr

/-- The class of a native parameter (R92). -/
inductive ParamClass where
  | coef
  | freq
  | delay
  | other
  deriving DecidableEq, Repr

/-- `valid`, `H[0]` (R92). -/
def descValid (d : Descriptor) : Bool := d.h.getLsbD 0

/-- `src`, `H[2:1]` (R92); `none` for the reserved value 3. -/
def descSrc (d : Descriptor) : Option Chan := chanOfBits (d.h.extractLsb' 1 2)

/-- `kind`, `H[3]` (R92). -/
def descKind (d : Descriptor) : MapKind := if d.h.getLsbD 3 then .exp else .lin

/-- `cls`, `H[5:4]` (R92). -/
def descCls (d : Descriptor) : ParamClass :=
  match d.h.extractLsb' 4 2 with
  | 0 => .coef
  | 1 => .freq
  | 2 => .delay
  | _ => .other

/-- `tap`, `H[6]` (R92). -/
def descTap (d : Descriptor) : Bool := d.h.getLsbD 6

/-- The reserved bit `H[7]` (R92). -/
def descRsv (d : Descriptor) : Bool := d.h.getLsbD 7

end Sys2Proof.Machine
end

