-- ==== Sys2Proof/Machine/Float.lean ====
section
/-! DEFINITION. The number format F: IEEE 754 binary32, round to nearest, ties to even, subnormals kept,
no status flags (00_scope R12). Every finite number is a whole multiple of 2^-149, so the operations
convert to integers in that unit, compute exactly and round once at the end. -/

namespace Sys2Proof.Machine

/-- The sign bit. -/
def isNeg (x : F) : Bool := x.msb

/-- The 31 bits below the sign, as a number. -/
def fmag (x : F) : Nat := x.toNat % 2 ^ 31

/-- The magnitude bits of an infinity; larger magnitudes are NaNs. -/
def infMag : Nat := 0x7F800000

/-- Neither a NaN nor an infinity (R13). -/
def isFinite (x : F) : Bool := fmag x < infMag

/-- A NaN. -/
def isNaN (x : F) : Bool := infMag < fmag x

/-- An infinity of either sign. -/
def isInf (x : F) : Bool := fmag x == infMag

/-- The number 1.0 in units of 2^-149. -/
def oneUnits : Nat := 2 ^ 149

/-- The value of the finite magnitude bits `b`, in units of 2^-149. -/
def magValue (b : Nat) : Nat :=
  if b < 2 ^ 23 then b else (2 ^ 23 + b % 2 ^ 23) * 2 ^ (b / 2 ^ 23 - 1)

/-- The absolute value of a finite number, in units of 2^-149. -/
def absUnits (x : F) : Nat := magValue (fmag x)

/-- The value of a finite number, in units of 2^-149. -/
def units (x : F) : Int := if isNeg x then -(absUnits x : Int) else absUnits x

/-- `n / d` rounded to the nearest whole number, a tie to the even one. -/
def roundDiv (n d : Nat) : Nat :=
  if 2 * (n % d) < d ∨ (2 * (n % d) = d ∧ (n / d) % 2 = 0) then n / d else n / d + 1

/-- How far the significand of `n / d` must be shifted to have 24 bits. -/
def roundShift (n d : Nat) : Nat := Nat.log2 (n / d) - 23

/-- Magnitude bits before the overflow test: the significand of `n / d` rounded to 24 bits, counted on
from the first bit pattern of its binade. A carry out of the significand lands in the exponent. -/
def roundBits (n d : Nat) : Nat :=
  roundShift n d * 2 ^ 23 + roundDiv n (d * 2 ^ roundShift n d)

/-- The magnitude bits of the binary32 number nearest to `n / d` units of 2^-149, ties to even,
an infinity on overflow (R12; log 11). -/
def roundMag (n d : Nat) : Nat := min (roundBits n d) infMag

/-- A number from its sign and magnitude bits. -/
def pack (neg : Bool) (b : Nat) : F := BitVec.ofNat 32 ((if neg then 2 ^ 31 else 0) + b)

/-- The NaN an operation delivers: its sign and payload are a free value (log 2). -/
def nanOf (op : FloatOp) (x y : F) : F :=
  let p := Config.nanPayload op x y
  pack p.msb (0x7FC00000 + p.toNat % 2 ^ 22)

/-- `-x`: the sign bit flipped. -/
def fneg (x : F) : F := pack (!isNeg x) (fmag x)

/-- `x + y` (R12). An exact zero sum is `+0.0` unless both operands are negative. -/
def fadd (x y : F) : F :=
  if isNaN x || isNaN y then nanOf .add x y
  else if isInf x then if isInf y && isNeg x != isNeg y then nanOf .add x y else x
  else if isInf y then y
  else if units x + units y = 0 then pack (isNeg x && isNeg y) 0
  else pack (units x + units y < 0) (roundMag (units x + units y).natAbs 1)

/-- `x - y` (R12). -/
def fsub (x y : F) : F := fadd x (fneg y)

/-- `x × y` (R12). -/
def fmul (x y : F) : F :=
  if isNaN x || isNaN y then nanOf .mul x y
  else if isInf x || isInf y then
    if fmag x = 0 ∨ fmag y = 0 then nanOf .mul x y else pack (isNeg x != isNeg y) infMag
  else pack (isNeg x != isNeg y) (roundMag (absUnits x * absUnits y) oneUnits)

/-- `x / y` (R12). -/
def fdiv (x y : F) : F :=
  if isNaN x || isNaN y then nanOf .div x y
  else if isInf x then if isInf y then nanOf .div x y else pack (isNeg x != isNeg y) infMag
  else if isInf y then pack (isNeg x != isNeg y) 0
  else if fmag y = 0 then
    if fmag x = 0 then nanOf .div x y else pack (isNeg x != isNeg y) infMag
  else pack (isNeg x != isNeg y) (roundMag (absUnits x * oneUnits) (absUnits y))

/-- `F(n)` (R12): a natural number rounded to F, exact below 2^24. -/
def fofNat (n : Nat) : F := pack false (roundMag (n * oneUnits) 1)

/-- The order key of a number that is no NaN; both zeros have the key 0. -/
def fkey (x : F) : Int := if isNeg x then -(fmag x : Int) else fmag x

/-- `x < y`, false on a NaN (R12). -/
def flt (x y : F) : Bool := !isNaN x && !isNaN y && decide (fkey x < fkey y)

/-- `x <= y`, false on a NaN (R12). -/
def fle (x y : F) : Bool := !isNaN x && !isNaN y && decide (fkey x ≤ fkey y)

/-- `x > y`. -/
def fgt (x y : F) : Bool := flt y x

/-- `x >= y`. -/
def fge (x y : F) : Bool := fle y x

/-- `x = y` as IEEE compares: the two zeros are equal, a NaN equals nothing (R12). -/
def feq (x y : F) : Bool := !isNaN x && !isNaN y && decide (fkey x = fkey y)

/-- `clamp(x, lo, hi)` (R14). Both comparisons fail on a NaN, which passes through (U3). -/
def clamp (x lo hi : F) : F := if flt x lo then lo else if fgt x hi then hi else x

/-- `s + a × (x - s)`: the one-pole update that the pot smoother (R101), the CV smoother (R104), the
delay-length smoother (R199) and the low-pass (R232) share. -/
def onePole (s a x : F) : F := fadd s (fmul a (fsub x s))

end Sys2Proof.Machine
end

