-- ==== Sys2Proof/Machine/Lookup.lean ====
section
/-! DEFINITION. The parameter lookup and the interpolation formulas (00_scope R14, R17;
44_audio_frame R190 to R200). The parameters are an explicit argument `c`, as everywhere below the
meanings. -/

namespace Sys2Proof.Machine

/-- `LutRead(p, j)` (R17, R62): the block's only memory read, without side effect. -/
def lutRead (c : Params) (p : PatchNo) (j : Slot) : Descriptor := c.lut p j

/-- `lin(t, lo, hi) = lo + t × (hi - lo)` (R14, R191). -/
def lin (t lo hi : F) : F := fadd lo (fmul t (fsub hi lo))

/-- `expi(t, lo, hi) = lo × POWF(hi / lo, t)` (R14). -/
def expi (c : Params) (t lo hi : F) : F := fmul lo (c.powf (fdiv hi lo) t)

/-- `expg`: the exponential map guarded by the epsilon check, with the linear map as its fallback
(R192, R244). -/
def expg (c : Params) (t lo hi : F) : F :=
  if flt lo c.epsDen || flt hi c.epsDen then lin t lo hi else expi c t lo hi

/-- Milliseconds to samples: `(v / 1000.0) × SAMPLE_RATE` (R136, R194). -/
def msToSamples (c : Params) (v : F) : F := fmul (fdiv v fThousand) c.sampleRate

/-- `cvmap(v) = clamp((v + 5.0) / 10.0, 0.0, 1.0)` (R106). -/
def cvmap (v : F) : F := clamp (fdiv (fadd v fFive) fTen) fZero fOne

/-- The value of the control that drives descriptor `d`, clamped to [0,1] (R190). The reserved source 3
names no control; a well-formed table has none in a valid slot (R93), and the model reads 0.0 there. -/
def driveOf (ctl : PerChan F) (d : Descriptor) : F :=
  match descSrc d with
  | some ch => clamp (ctl.get ch) fZero fOne
  | none => fZero

/-- The mapped value `v` of a valid slot (R187 stage 1). -/
def mapped (c : Params) (t : F) (d : Descriptor) : F :=
  match descKind d with
  | .lin => lin t d.lo d.hi
  | .exp => expg c t d.lo d.hi

/-- What stage 1 yields for one slot: the native parameter and the next smoother state `dl[j]`. -/
structure SlotResult where
  nat : F
  dl : F
  deriving DecidableEq, Repr

/-- The target length of a `DELAY` slot: the knob-derived length or the tap estimate, clamped to the
safe range (R194, R197, R198). -/
def delayTarget (c : Params) (d : Descriptor) (v : F) (armed : Bool) (est : F) : F :=
  clamp (if descTap d && armed then est else msToSamples c v) d.cmin d.cmax

/-- Stage 1 for one slot with descriptor `d` (R187): an unused slot yields 0.0 and touches no state
(R190); a slot of class other than `DELAY` is mapped and clamped (R196); a `DELAY` slot glides one step
toward its target and is clamped again (R199, R200, D25). -/
def slotParam (c : Params) (d : Descriptor) (ctl : PerChan F) (armed : Bool) (est dl : F) :
    SlotResult :=
  if descValid d then
    let v := mapped c (driveOf ctl d) d
    match descCls d with
    | .delay =>
      let dl' := onePole dl c.dlyBeta (delayTarget c d v armed est)
      ⟨clamp dl' d.cmin d.cmax, dl'⟩
    | _ => ⟨clamp v d.cmin d.cmax, dl⟩
  else ⟨fZero, dl⟩

end Sys2Proof.Machine
end

