-- ==== Sys2Proof/WellFormed.lean ====
section
/-! DEFINITION. Well-formed descriptors (30_encoding R93), tables (44_audio_frame R193) and
configurations (00_scope R8, R9, R15; 44_audio_frame R206), and the machine's own configuration: ONE
well-formed configuration of which nothing else is known. The rules give behaviour only for well-formed
configurations and a model refuses any other (R9): here no other can be built, and every claim about
`Config.machine` holds for every well-formed configuration (93_implementation_defined U9). An `Instr` has
no operand of its own, so no `Instr` is ill-formed. -/

namespace Sys2Proof
open Machine

/-- `x` lies in [0,1]. -/
def inUnit (x : F) : Bool := fle fZero x && fle x fOne

/-- `x` lies in (0,1]: the constraint R8 puts on a smoothing coefficient. -/
def isCoef (x : F) : Bool := flt fZero x && fle x fOne

/-- `x` is finite and above 0. -/
def isPosFinite (x : F) : Bool := isFinite x && flt fZero x

/-- A well-formed entry of the lookup table (R93). The other fields of an unused slot are ignored. -/
def Descriptor.wellFormed (d : Descriptor) : Bool :=
  !descRsv d &&
    (!descValid d ||
      ((descSrc d).isSome &&
        (isFinite d.lo && isFinite d.hi && isFinite d.cmin && isFinite d.cmax) &&
        fle d.cmin d.cmax &&
        (descKind d == .lin || (flt fZero d.lo && flt fZero d.hi)) &&
        (!descTap d || descCls d == .delay) &&
        (descCls d != .delay || flt fZero d.cmin)))

/-- The decay parameter every reverb-bank patch has (R193 a, d). -/
def isDecayParam (d : Descriptor) : Bool :=
  descValid d && descSrc d == some .decay && descKind d == .lin && descCls d == .coef &&
    d.lo == decayLo && d.hi == decayHi

/-- The tap-overridable time parameter every delay-bank patch has (R193 c, d). -/
def isTapTimeParam (d : Descriptor) : Bool :=
  descValid d && descSrc d == some .decay && descKind d == .exp && descCls d == .delay && descTap d

/-- The pre-delay time every reverb-bank patch has (R193 b). Which control drives it is not fixed: R193 d
names channel 1 for a time, and the well-formed `CFG_T` of 95_test_vectors drives it by channel 2. -/
def isPreDelayParam (d : Descriptor) : Bool :=
  descValid d && descKind d == .exp && descCls d == .delay

/-- The feedback amount every delay-bank patch has (R193 d): a dimensionless parameter driven by
channel 2. -/
def isFeedbackParam (d : Descriptor) : Bool :=
  descValid d && descSrc d == some .tone && descCls d == .coef

/-- The four slots. -/
def allSlots : List Slot := [.s0, .s1, .s2, .s3]

/-- Some slot of patch `p` satisfies `f`. -/
def Params.hasSlot (c : Params) (p : PatchNo) (f : Descriptor → Bool) : Bool :=
  allSlots.any fun j => f (c.lut p j)

/-- The eight patch numbers. -/
def allPatches : List PatchNo := [0, 1, 2, 3, 4, 5, 6, 7]

/-- `PARAM_LUT` is well formed entry by entry (R93). -/
def Params.lutEntriesOk (c : Params) : Bool :=
  allPatches.all fun p => allSlots.all fun j => (c.lut p j).wellFormed

/-- `PARAM_LUT` holds what the source fixes of its contents (R193 a to d; log 1). -/
def Params.lutContentOk (c : Params) : Bool :=
  allPatches.all fun p =>
    if p < 4 then c.hasSlot p isDecayParam && c.hasSlot p isPreDelayParam
    else c.hasSlot p isTapTimeParam && c.hasSlot p isFeedbackParam

/-- The gate thresholds: finite and `TAP_LOW < TAP_HIGH` (R8, D16). -/
def Params.thresholdsOk (c : Params) : Bool :=
  isFinite c.tapLow && isFinite c.tapHigh && flt c.tapLow c.tapHigh

/-- The lengths: `BLOCK_SIZE >= 1`, `1 <= FADE_LEN < WARMUP_LEN < 2^24` (R8). -/
def Params.lengthsOk (c : Params) : Bool :=
  decide (1 ≤ c.blockSize ∧ 1 ≤ c.fadeLen ∧ c.fadeLen < c.warmupLen ∧ c.warmupLen < 2 ^ 24)

/-- The coefficients and scales (R8): `CV_ALPHA_RISE`, `CV_ALPHA_FALL`, `DLY_BETA`, `LP_A` in (0,1],
`DC_R` in [0,1), `SAMPLE_RATE` and `EPS_DEN` above 0. -/
def Params.coefsOk (c : Params) : Bool :=
  isCoef c.cvAlphaRise.decay && isCoef c.cvAlphaRise.tone && isCoef c.cvAlphaFall.decay &&
    isCoef c.cvAlphaFall.tone && isCoef c.dlyBeta && isCoef c.lpA &&
    (fle fZero c.dcR && flt c.dcR fOne) && isPosFinite c.sampleRate && isPosFinite c.epsDen

/-- The reset seeds: `INIT_POT[ch]` in [0,1], `INIT_CV[ch]` finite (R8). -/
def Params.seedsOk (c : Params) : Bool :=
  inUnit c.initPot.mix && inUnit c.initPot.decay && inUnit c.initPot.tone &&
    isFinite c.initCv.decay && isFinite c.initCv.tone

/-- The named properties of `POWF` (R15), all that is known of it (log 12). -/
structure PowfOk (powf : F → F → F) : Prop where
  at_zero : ∀ b, isPosFinite b = true → powf b fZero = fOne
  at_one : ∀ b, isPosFinite b = true → powf b fOne = b
  finite : ∀ b t, isPosFinite b = true → inUnit t = true → isFinite (powf b t) = true
  mono_up : ∀ b t u, isPosFinite b = true → fle fOne b = true → inUnit t = true →
    inUnit u = true → fle t u = true → fle (powf b t) (powf b u) = true
  range_up : ∀ b t, isPosFinite b = true → fle fOne b = true → inUnit t = true →
    fle fOne (powf b t) = true ∧ fle (powf b t) b = true
  mono_down : ∀ b t u, isPosFinite b = true → fle b fOne = true → inUnit t = true →
    inUnit u = true → fle t u = true → fle (powf b u) (powf b t) = true
  range_down : ∀ b t, isPosFinite b = true → fle b fOne = true → inUnit t = true →
    fle b (powf b t) = true ∧ fle (powf b t) fOne = true

/-- `nat[j]` is finite and, for a valid slot of patch `p`, within its safe range. -/
def Params.natOk (c : Params) (p : PatchNo) (nat : PerSlot F) : Prop :=
  ∀ j, isFinite (nat.get j) = true ∧
    (descValid (c.lut p j) = true →
      fle (c.lut p j).cmin (nat.get j) = true ∧ fle (nat.get j) (c.lut p j).cmax = true)

/-- `DSP_finite` (R206). `DSP_total` and `DSP_function` hold of any Lean function. -/
def Params.DspFinite (c : Params) : Prop :=
  ∀ p nat gw l r s, c.natOk p nat → isFinite gw = true → isFinite l = true → isFinite r = true →
    isFinite (c.dspStep p nat gw l r s).wetL = true ∧
      isFinite (c.dspStep p nat gw l r s).wetR = true

/-- A well-formed configuration (R9). `DELAY_BANK` is B, the value R8 gives it (D7). -/
structure Params.WellFormed (c : Params) : Prop where
  delayBank : c.delayBank = .b
  coefs : c.coefsOk = true
  lengths : c.lengthsOk = true
  thresholds : c.thresholdsOk = true
  seeds : c.seedsOk = true
  lutEntries : c.lutEntriesOk = true
  lutContent : c.lutContentOk = true
  powf : PowfOk c.powf
  dsp : c.DspFinite

/-- SOME well-formed configuration. It serves only to show that one exists, which an opaque constant of
type `Config` needs; nothing about `Config.machine` can be proved from it. -/
def Params.witness : Params where
  delayBank := .b
  sampleRate := fThousand
  blockSize := 1
  cvAlphaRise := ⟨fOne, fOne⟩
  cvAlphaFall := ⟨fOne, fOne⟩
  tapHigh := fOne
  tapLow := fZero
  fadeLen := 1
  warmupLen := 2
  needsWarmup := fun _ => false
  lut := fun p j =>
    match j with
    | .s0 => if p < 4 then ⟨0x03#8, decayLo, decayHi, decayLo, decayHi⟩
             else ⟨0x6B#8, fOne, fTen, fOne, fThousand⟩
    | .s1 => if p < 4 then ⟨0x2D#8, fOne, fTen, fOne, fThousand⟩
             else ⟨0x05#8, fZero, decayHi, fZero, decayHi⟩
    | _ => ⟨0x00#8, fZero, fZero, fZero, fZero⟩
  dlyBeta := fOne
  dcR := fZero
  lpA := fOne
  epsDen := fOne
  initPot := ⟨fOne, fOne, fOne⟩
  initCv := ⟨fZero, fZero⟩
  powf := fun b t => if feq t fZero then fOne else b
  dspReset := ⟨[]⟩
  dspStep := fun _ _ _ l r s => ⟨l, r, s⟩

theorem fle_refl_of_posFinite {b : F} (h : isPosFinite b = true) : fle b b = true := by
  simp only [isPosFinite, flt, Bool.and_eq_true, Bool.not_eq_true'] at h
  simp [fle, h.2.1.2]

theorem feq_zero_of_fle {t u : F} (ht : inUnit t = true) (htu : fle t u = true)
    (hu : feq u fZero = true) : feq t fZero = true := by
  simp only [inUnit, fle, feq, Bool.and_eq_true, Bool.not_eq_true', decide_eq_true_eq] at *
  exact ⟨⟨ht.1.1.2, hu.1.2⟩, by omega⟩

theorem Params.witness_powfOk : PowfOk Params.witness.powf where
  at_zero b _ := by simp [Params.witness, show feq fZero fZero = true by decide]
  at_one b _ := by simp [Params.witness, show feq fOne fZero = false by decide]
  finite b t hb _ := by
    simp only [Params.witness]
    split
    · decide
    · simp only [isPosFinite, Bool.and_eq_true] at hb
      exact hb.1
  mono_up b t u hb h1 ht _ htu := by
    simp only [Params.witness]
    split <;> split
    · decide
    · exact h1
    · exact absurd (feq_zero_of_fle ht htu ‹_›) ‹_›
    · exact fle_refl_of_posFinite hb
  range_up b t hb h1 _ := by
    simp only [Params.witness]
    split
    · exact ⟨by decide, h1⟩
    · exact ⟨h1, fle_refl_of_posFinite hb⟩
  mono_down b t u hb h1 ht _ htu := by
    simp only [Params.witness]
    split <;> split
    · decide
    · exact absurd (feq_zero_of_fle ht htu ‹_›) ‹_›
    · exact h1
    · exact fle_refl_of_posFinite hb
  range_down b t hb h1 _ := by
    simp only [Params.witness]
    split
    · exact ⟨h1, by decide⟩
    · exact ⟨fle_refl_of_posFinite hb, h1⟩

theorem Params.witness_wellFormed : Params.witness.WellFormed where
  delayBank := rfl
  coefs := by decide
  lengths := by decide
  thresholds := by decide
  seeds := by decide
  lutEntries := by decide
  lutContent := by decide
  powf := Params.witness_powfOk
  dsp := fun _ _ _ _ _ _ _ _ hl hr => ⟨hl, hr⟩

/-- Parameters together with the proof that they are well formed (R9). -/
structure Config where
  params : Params := Params.witness
  wellFormed : params.WellFormed := by exact Params.witness_wellFormed
  deriving Inhabited

/-- THE MACHINE'S CONFIGURATION (log 1): one well-formed configuration, of which nothing else can be
proved. A claim about it is a claim about every well-formed configuration (U9). -/
opaque Config.machine : Config

/-- The parameters the machine runs with. -/
abbrev cfg : Params := Config.machine.params

end Sys2Proof
end

