-- ==== Sys2Proof/Machine/State.lean ====
section
/-! DEFINITION. The state of FXPIPE: every register of 10_state R22 to R31, the ports of 30_encoding R81
with the read port of R61, and the commands the agents are about to issue (R18, R66). Then the reasons a
step can stop and the state after reset. -/

namespace Sys2Proof.Machine

/-- A command on a command port: the command word and the operand ports that come with it (R80, R81). -/
structure Command where
  cw : CommandWord
  t : Time
  a : F
  b : F
  l : Bool
  deriving DecidableEq, Repr, Inhabited

/-- What the host may present (R66): a command, or a read of the published word of some number. -/
inductive HostRequest where
  | command (c : Command)
  | readPub (n : Nat)
  deriving DecidableEq, Repr, Inhabited

/-- The machine state. The first eight groups are the spec's registers (R20: "and nothing else"); the
last two are the model's own fields for what R35 calls ports and results, and for the schedule (log 5). -/
structure State where
  -- ParameterController (R22)
  potS : PerChan F          -- pot_s[ch]: smoothed pot value
  cvRaw : PerCv F           -- cv_raw[ch]: last raw CV sample, volts
  cvS : PerCv F             -- cv_s[ch]: smoothed CV voltage
  cvMode : PerCv Bool       -- cv_mode[ch]: the control value comes from the CV
  ctl : PerChan F           -- ctl[ch]: active control value
  -- TapTempoEstimator (R24)
  gate : Bool
  hasEdge : Bool
  lastTapTime : Time
  armed : Bool
  est : F                   -- samples
  -- BankPatchStateMachine (R25)
  level : Level
  bank : Bank
  index : Index
  preview : Bank
  -- debounce and press timing (R26)
  btnRawPrev : Bool
  btnTChange : Time
  btnStable : Bool
  btnTPress : Time
  btnLongDone : Bool
  tInteract : Time
  -- TransitionManager (R27)
  fadeRemaining : Nat
  warmupRemaining : Nat
  -- AudioFrameEngine (R29)
  aBank : Bank
  aIndex : Index
  aCtl : PerChan F
  aArmed : Bool
  aEst : F
  dl : PerSlot F            -- dl[j]: delay-length smoother of slot j, samples
  -- the attached DSP unit (R30)
  prim : Prim
  -- OutputConditioner (R31)
  hpX1 : PerSide F
  hpY1 : PerSide F
  lpZ : PerSide F
  -- ports (R81): operands of the command last taken; results, none where not driven by it
  portT : Time
  portA : F
  portB : F
  portL : Bool
  outL : Option F
  outR : Option F
  pchg : Option Bool
  pubData : Option (BitVec 32)  -- data of the PUB read port (R61)
  -- what the agents are about to issue, oldest first (R18, R66), and how many were taken
  controlQ : List Command
  audioQ : List Command
  hostQ : List HostRequest
  turn : Nat
  deriving DecidableEq, Repr

/-- FXPIPE never faults (R240: "A model gives `raise` no constructor"), so there is no fault. -/
inductive Fault where
  deriving DecidableEq, Repr

/-- Why the model takes no step. Each is a case in which the spec tells a model to refuse; none is an
event of the hardware. -/
inductive Refusal where
  /-- Raised by an arm of `exec` for an operation without a meaning; no arm does. Safe. -/
  | notModelled (mnemonic : String)
  /-- Raised by `step` on one of the 242 reserved command words (R84, U4; log 9). Safe: the hardware changes no
  state there. -/
  | reservedCommand (cw : CommandWord) (why : DecodeError)
  /-- Raised by `step` when an agent issues an operation that is not its own (R252, U7; log 9). Safe: the
  hardware runs it with its ordinary meaning. -/
  | wrongAgent (agent : Agent) (i : Instr)
  /-- Raised by POTSM, CVSM, TAPU and SMP on a NaN or an infinity on an operand port they read (R13, U3; log 10).
  Safe: the spec leaves every value written then open. -/
  | nonFiniteOperand
  /-- Raised by `step` on a read of a published word above 5 (R61, U6; log 9). Safe: the hardware returns 0. -/
  | pubOutOfRange (n : Nat)
  deriving DecidableEq, Repr

/-- The state after `RST` under the parameters `c` (R36), with idle ports and nothing presented. -/
def State.initial (c : Params) : State where
  potS := c.initPot
  cvRaw := c.initCv
  cvS := c.initCv
  cvMode := ⟨false, false⟩
  ctl := ⟨fZero, fZero, fZero⟩
  gate := false
  hasEdge := false
  lastTapTime := 0
  armed := false
  est := fZero
  level := .patch
  bank := .a
  index := 0
  preview := .a
  btnRawPrev := false
  btnTChange := 0
  btnStable := false
  btnTPress := 0
  btnLongDone := false
  tInteract := 0
  fadeRemaining := 0
  warmupRemaining := 0
  aBank := .a
  aIndex := 0
  aCtl := ⟨fZero, fZero, fZero⟩
  aArmed := false
  aEst := fZero
  dl := ⟨fZero, fZero, fZero, fZero⟩
  prim := c.dspReset
  hpX1 := ⟨fZero, fZero⟩
  hpY1 := ⟨fZero, fZero⟩
  lpZ := ⟨fZero, fZero⟩
  portT := 0
  portA := fZero
  portB := fZero
  portL := false
  outL := none
  outR := none
  pchg := none
  pubData := none
  controlQ := []
  audioQ := []
  hostQ := []
  turn := 0

/-- The machine right after reset (R36, R270), under the machine's configuration. -/
def State.reset : State := State.initial cfg

end Sys2Proof.Machine
end

