-- ==== Sys2Proof/Machine/Operands.lean ====
section
/-! DEFINITION. Operand ports (30_encoding R81, R82), the finiteness precondition (00_scope R13) and the
ownership of the operations (60_exceptions R252). -/

namespace Sys2Proof.Machine

/-- What a step answers. -/
abbrev Result := Host.Outcome State Fault Refusal

/-- R252: control issues POTSM, CVSM, TKO, TAPU, BTNU; audio BLK, SMP; the host RST; anyone NOP. -/
def mayIssue : Agent → Instr → Bool
  | _, .nop => true
  | .host, .rst => true
  | .control, .potsm0 | .control, .potsm1 | .control, .potsm2 => true
  | .control, .cvsm1 | .control, .cvsm2 => true
  | .control, .tko0 | .control, .tko1 | .control, .tko2 => true
  | .control, .tapu | .control, .btnu => true
  | .audio, .blk | .audio, .smp => true
  | _, _ => false

/-- The agent that issues an operation in a well-formed program (R82); `NOP` may come from any. -/
def ownerOf : Instr → Agent
  | .rst => .host
  | .blk | .smp => .audio
  | .nop | .potsm0 | .potsm1 | .potsm2 | .cvsm1 | .cvsm2 | .tko0 | .tko1 | .tko2 | .tapu | .btnu =>
    .control

/-- Whether port `A` is among the ports the operation reads (R82). -/
def readsA : Instr → Bool
  | .potsm0 | .potsm1 | .potsm2 | .cvsm1 | .cvsm2 | .tapu | .smp => true
  | .nop | .rst | .tko0 | .tko1 | .tko2 | .btnu | .blk => false

/-- Whether port `B` is among the ports the operation reads (R82). -/
def readsB : Instr → Bool
  | .smp => true
  | .nop | .rst | .potsm0 | .potsm1 | .potsm2 | .cvsm1 | .cvsm2 | .tko0 | .tko1 | .tko2 | .tapu
  | .btnu | .blk => false

/-- Every F operand the operation reads from the command is finite (R13). -/
def operandsFinite (i : Instr) (c : Command) : Bool :=
  (!readsA i || isFinite c.a) && (!readsB i || isFinite c.b)

/-- An operation whose F operand must be finite (R13): it runs on a finite port `A` and is refused
otherwise. -/
def withFiniteA (s : State) (next : State) : Result :=
  if isFinite s.portA then .next next else .refused .nonFiniteOperand

/-- An operation that reads F operands on both ports (R13). -/
def withFiniteAB (s : State) (next : State) : Result :=
  if isFinite s.portA && isFinite s.portB then .next next else .refused .nonFiniteOperand

/-- `now -_T then`: elapsed milliseconds, modulo 2^32 (R16). -/
def elapsed (now before : Time) : Nat := (now - before).toNat

end Sys2Proof.Machine
end

