-- ==== Sys2Proof/Machine/Flags.lean ====
section
/-! DEFINITION. FXPIPE has no condition codes (10_state R32): its flags are registers, each set and
cleared by one operation's rule. Here are the takeover law for `cv_mode` (40_parameter_controller R107)
and the published words that show the flags to the outside (10_state R33, 20_memory R61). -/

namespace Sys2Proof.Machine

/-- The takeover law (R107): engage at or below `EPS_ON`, release at or above `EPS_OFF`, else keep. -/
def takeover (ch : CvChan) (mode : Bool) (pot : F) : Bool :=
  if !mode && fle pot (epsOn ch) then true
  else if mode && fge pot (epsOff ch) then false
  else mode

/-- `PUB_PATCH` (R33): `index` in 1:0, `bank` in 2, `level` in 3, `preview` in 4, the rest 0. -/
def pubPatch (s : State) : BitVec 32 :=
  0#27 ++ bankBit s.preview ++ levelBit s.level ++ bankBit s.bank ++ s.index

/-- `PUB_FLAGS` (R33): bit 0 is the hardwired `cv_mode[0]`, bits 1 and 2 `cv_mode[1]` and `cv_mode[2]`,
bit 3 `armed`, the rest 0. -/
def pubFlags (s : State) : BitVec 32 :=
  0#28 ++ flagBit s.armed ++ flagBit s.cvMode.tone ++ flagBit s.cvMode.decay ++ 0#1

/-- The published word `PUB[n]`, a pure function of the control-domain registers (R33); `none` for a
number outside 0..5 (R61). -/
def pubWord (s : State) (n : Nat) : Option (BitVec 32) :=
  match n with
  | 0 => some (pubPatch s)
  | 1 => some s.ctl.mix
  | 2 => some s.ctl.decay
  | 3 => some s.ctl.tone
  | 4 => some (pubFlags s)
  | 5 => some s.tInteract
  | _ => none

end Sys2Proof.Machine
end

