-- ==== Sys2Proof/Machine/Ops.lean ====
section
/-! DEFINITION. The named operations over the registers that several meanings share. FXPIPE has no
exceptions (60_exceptions R240); the one event with a handler-like effect is the patch-changed event, and
`commit` is its whole effect (R248). There is no return from it (R249): the fade and the warm-up run down
on their own (`Transition.lean`). -/

namespace Sys2Proof.Machine

/-- `COMMIT` (41_transition_manager R121): arm the fade, arm the warm-up if the newly active patch needs
it and clear it otherwise (C4), and reset the DSP unit. `s` already holds the new `bank` and `index`. -/
def commit (c : Params) (s : State) : State :=
  { s with
    fadeRemaining := c.fadeLen
    warmupRemaining := if c.needsWarmup (patchNo s.bank s.index) then c.warmupLen else 0
    prim := c.dspReset }

/-- The effect of `POTSM ch` (40_parameter_controller R101): clamp the reading, then one one-pole step. -/
def potSmooth (ch : Chan) (s : State) : State :=
  { s with
    potS := s.potS.set ch (onePole (s.potS.get ch) potAlpha (clamp s.portA fZero fOne)) }

/-- The coefficient `CVSM ch` uses: rise when the sample is above the smoothed value, else fall (R104). -/
def cvAlpha (c : Params) (ch : CvChan) (a cv : F) : F :=
  if fgt a cv then c.cvAlphaRise.get ch else c.cvAlphaFall.get ch

/-- The effect of `CVSM ch` (R104): keep the raw sample, then one one-pole step on volts. -/
def cvSmooth (c : Params) (ch : CvChan) (s : State) : State :=
  { s with
    cvRaw := s.cvRaw.set ch s.portA
    cvS := s.cvS.set ch
      (onePole (s.cvS.get ch) (cvAlpha c ch s.portA (s.cvS.get ch)) s.portA) }

/-- The effect of `TKO 0` (R108): channel 0 has no CV, so its control value is the smoothed pot. -/
def takeMix (s : State) : State := { s with ctl := s.ctl.set .mix s.potS.mix }

/-- The effect of `TKO ch` for a CV channel (R108): resolve the mode, then select by the NEW mode. -/
def takeCv (ch : CvChan) (s : State) : State :=
  let m := takeover ch (s.cvMode.get ch) (s.potS.get ch.toChan)
  { s with
    cvMode := s.cvMode.set ch m
    ctl := s.ctl.set ch.toChan (if m then cvmap (s.cvS.get ch) else s.potS.get ch.toChan) }

/-- Every register at its reset value (70_reset_and_hazards R270). The ports, the pending commands and
the count of commands taken are no registers and are left alone; no result port is driven (R271). -/
def resetRegisters (c : Params) (s : State) : State :=
  { s with
    potS := c.initPot
    cvRaw := c.initCv
    cvS := c.initCv
    cvMode := ⟨false, false⟩
    ctl := ⟨fZero, fZero, fZero⟩
    gate := false
    hasEdge := false
    lastTapTime := 0
    armed := false
    est := fZero
    level := .patch
    bank := .a
    index := 0
    preview := .a
    btnRawPrev := false
    btnTChange := 0
    btnStable := false
    btnTPress := 0
    btnLongDone := false
    tInteract := 0
    fadeRemaining := 0
    warmupRemaining := 0
    aBank := .a
    aIndex := 0
    aCtl := ⟨fZero, fZero, fZero⟩
    aArmed := false
    aEst := fZero
    dl := ⟨fZero, fZero, fZero, fZero⟩
    prim := c.dspReset
    hpX1 := ⟨fZero, fZero⟩
    hpY1 := ⟨fZero, fZero⟩
    lpZ := ⟨fZero, fZero⟩ }

end Sys2Proof.Machine
end

