-- ==== Sys2Proof/Machine/OutputConditioner.lean ====
section
/-! DEFINITION. OutputConditioner, stage 6 of SMP (45_output_conditioner R230 to R234): DC blocker,
low-pass, hard clamp, each channel with its own memory. -/

namespace Sys2Proof.Machine

/-- The DC blocker (R231): `h = (x - hp_x1) + (DC_R × hp_y1)`. -/
def dcBlock (c : Params) (x x1 y1 : F) : F := fadd (fsub x x1) (fmul c.dcR y1)

/-- The low-pass (R232): `lp_z + LP_A × (h - lp_z)`. -/
def lowPass (c : Params) (h z : F) : F := onePole z c.lpA h

/-- The hard clamp (R233). -/
def hardClamp (z : F) : F := clamp z outLimitNeg outLimit

/-- `OCND(yL, yR)` (R230): the filter memory moves on and the clamped pair goes to the result ports. The
filter memory keeps the unclamped value (R233). -/
def condition (c : Params) (yL yR : F) (s : State) : State :=
  let hL := dcBlock c yL s.hpX1.left s.hpY1.left
  let hR := dcBlock c yR s.hpX1.right s.hpY1.right
  let zL := lowPass c hL s.lpZ.left
  let zR := lowPass c hR s.lpZ.right
  { s with
    hpX1 := ⟨yL, yR⟩
    hpY1 := ⟨hL, hR⟩
    lpZ := ⟨zL, zR⟩
    outL := some (hardClamp zL)
    outR := some (hardClamp zR) }

end Sys2Proof.Machine
end

