-- ==== Sys2Proof/Machine/Transition.lean ====
section
/-! DEFINITION. The TransitionManager's two stages of SMP (41_transition_manager R124 to R127): the gains
from the live counters, and the countdown after they were used. `COMMIT` is in `Ops.lean`. -/

namespace Sys2Proof.Machine

/-- `1.0 - F(remaining) / F(len)` (R124, R125). -/
def rampGain (remaining len : Nat) : F := fsub fOne (fdiv (fofNat remaining) (fofNat len))

/-- The fade gain `g_f` (R124). -/
def fadeGain (c : Params) (s : State) : F := rampGain s.fadeRemaining c.fadeLen

/-- The warm-up gain `g_w` (R125). -/
def warmupGain (c : Params) (s : State) : F := rampGain s.warmupRemaining c.warmupLen

/-- The countdown (R126): each active counter loses one unit, and 0 stays 0. -/
def countdown (s : State) : State :=
  { s with
    fadeRemaining := s.fadeRemaining - 1
    warmupRemaining := s.warmupRemaining - 1 }

end Sys2Proof.Machine
end

