-- ==== Sys2Proof/Machine/AudioFrame.lean ====
section
/-! DEFINITION. The AudioFrameEngine operations BLK and SMP (44_audio_frame). Which of the eight patches
runs is the argument `p` of the lookup and of the attached DSP unit (R205 to R215): the signal flow of a
topology is inside the unit and is not in the spec. -/

namespace Sys2Proof.Machine

/-- The effect of `BLK` (R186): latch the seven published items. -/
def latchBlock (s : State) : State :=
  { s with
    aBank := s.bank
    aIndex := s.index
    aCtl := s.ctl
    aArmed := s.armed
    aEst := s.est }

/-- The patch number `SMP` runs: that of the snapshot (R187). -/
def activePatch (s : State) : PatchNo := patchNo s.aBank s.aIndex

/-- Stage 1 for slot `j` (R187, R190), read from the snapshot and the smoother state only. -/
def slotOf (c : Params) (s : State) (j : Slot) : SlotResult :=
  slotParam c (lutRead c (activePatch s) j) s.aCtl s.aArmed s.aEst (s.dl.get j)

/-- The native parameters `nat[0..3]` (R187 stage 1). -/
def natParams (c : Params) (s : State) : PerSlot F := .ofFn fun j => (slotOf c s j).nat

/-- The smoother states after stage 1 (R199). -/
def nextDl (c : Params) (s : State) : PerSlot F := .ofFn fun j => (slotOf c s j).dl

/-- Stage 3 (R187, R205): one call of the DSP unit. -/
def dspCall (c : Params) (s : State) : DspResult :=
  c.dspStep (activePatch s) (natParams c s) (warmupGain c s) s.portA s.portB s.prim

/-- The Mix control of the final mix, `m` (R203). -/
def mixOf (s : State) : F := clamp s.aCtl.mix fZero fOne

/-- Stages 4 and 5 for one channel (R202, R203): `((1.0 - m) × dry) + (m × (g_f × wet))`. -/
def mixDown (m gf dry wet : F) : F := fadd (fmul (fsub fOne m) dry) (fmul m (fmul gf wet))

/-- The effect of `SMP` (R187): stages 1 to 7, each reading the state as it stood at the start. -/
def sample (c : Params) (s : State) : State :=
  let w := dspCall c s
  let yL := mixDown (mixOf s) (fadeGain c s) s.portA w.wetL
  let yR := mixDown (mixOf s) (fadeGain c s) s.portB w.wetR
  countdown (condition c yL yR { s with dl := nextDl c s, prim := w.prim })

/-- `BLK` (R186). -/
def execBlk (s : State) : Result := .next (latchBlock s)

/-- `SMP` (R187). -/
def execSmp (s : State) : Result := withFiniteAB s (sample cfg s)

end Sys2Proof.Machine
end

