-- ==== Sys2Proof/Machine/BankPatch.lean ====
section
/-! DEFINITION. The BankPatchStateMachine operation BTNU and its internal events EVSHORT and EVLONG
(43_bank_patch R155 to R169). -/

namespace Sys2Proof.Machine

/-- The event one `BTNU` raises: at most one (R158 f). -/
inductive ButtonEvent where
  | none
  | short
  | long
  deriving DecidableEq, Repr

/-- Step 1 of R156: track the raw level. -/
def btnTrack (s : State) : State :=
  if s.portL != s.btnRawPrev then { s with btnRawPrev := s.portL, btnTChange := s.portT } else s

/-- How a release is classified when no poll saw the 800 ms mark (R156 step 2, R157 e). -/
def releaseEvent (s : State) : ButtonEvent :=
  if s.btnLongDone then .none
  else if elapsed s.portT s.btnTPress < longMs then .short
  else .long

/-- Step 2 of R156: accept a level seen unchanged for at least `DEBOUNCE_MS`, stamp the interaction
(R166), and time the press or classify the release. -/
def btnDebounce (s : State) : State × ButtonEvent :=
  if s.btnRawPrev != s.btnStable && decide (debounceMs ≤ elapsed s.portT s.btnTChange) then
    if s.btnRawPrev then
      ({ s with btnStable := true, tInteract := s.portT, btnTPress := s.portT,
                btnLongDone := false }, .none)
    else ({ s with btnStable := false, tInteract := s.portT }, releaseEvent s)
  else (s, .none)

/-- Step 3 of R156: the long press reached while the button is still held. -/
def btnHold (p : State × ButtonEvent) : State × ButtonEvent :=
  if p.1.btnStable && !p.1.btnLongDone &&
      decide (longMs ≤ elapsed p.1.portT p.1.btnTPress) then
    ({ p.1 with btnLongDone := true }, .long)
  else p

/-- The other bank. -/
def otherBank : Bank → Bank
  | .a => .b
  | .b => .a

/-- Short press at LEVEL_BANK (R162): toggle the preview. -/
def shortAtBank (s : State) : State := { s with preview := otherBank s.preview }

/-- Short press at LEVEL_PATCH (R163): the next patch of the bank, modulo 4, and `COMMIT`. -/
def shortAtPatch (c : Params) (s : State) : State := commit c { s with index := s.index + 1 }

/-- Long press at LEVEL_BANK (R164): commit the previewed bank at index 0; leaving the delay bank clears
`armed` (R141). -/
def longAtBank (c : Params) (s : State) : State :=
  commit c
    { s with
      bank := s.preview
      index := 0
      level := .patch
      armed := if s.bank = c.delayBank ∧ s.preview ≠ c.delayBank then false else s.armed }

/-- Long press at LEVEL_PATCH (R165): browse the banks, starting at the active one. -/
def longAtPatch (s : State) : State := { s with preview := s.bank, level := .bank }

/-- `EVSHORT` (R161): the state after it and `patch_changed`. -/
def evShort (c : Params) (s : State) : State × Bool :=
  match s.level with
  | .bank => (shortAtBank s, false)
  | .patch => (shortAtPatch c s, true)

/-- `EVLONG` (R161): the state after it and `patch_changed`. -/
def evLong (c : Params) (s : State) : State × Bool :=
  match s.level with
  | .bank => (longAtBank c s, true)
  | .patch => (longAtPatch s, false)

/-- Step 4 of R156: dispatch the event, if any. -/
def btnDispatch (c : Params) (p : State × ButtonEvent) : State × Bool :=
  match p.2 with
  | .none => (p.1, false)
  | .short => evShort c p.1
  | .long => evLong c p.1

/-- Steps 1 to 3 of R156: the button registers moved on, and the event this `BTNU` raises. -/
def btnPoll (s : State) : State × ButtonEvent := btnHold (btnDebounce (btnTrack s))

/-- The effect of `BTNU` (R156): the four steps in order; `PCHG` carries `patch_changed` (R160). -/
def btnUpdate (c : Params) (s : State) : State :=
  let r := btnDispatch c (btnPoll s)
  { r.1 with pchg := some r.2 }

/-- `BTNU` (R156). -/
def execBtnu (s : State) : Result := .next (btnUpdate cfg s)

end Sys2Proof.Machine
end

