-- ==== Sys2Proof/Machine/ParameterController.lean ====
section
/-! DEFINITION. The ParameterController operations POTSM, CVSM and TKO (40_parameter_controller). -/

namespace Sys2Proof.Machine

/-- `POTSM 0` (R101). -/
def execPotsm0 (s : State) : Result := withFiniteA s (potSmooth .mix s)

/-- `POTSM 1` (R101). -/
def execPotsm1 (s : State) : Result := withFiniteA s (potSmooth .decay s)

/-- `POTSM 2` (R101). -/
def execPotsm2 (s : State) : Result := withFiniteA s (potSmooth .tone s)

/-- `CVSM 1` (R104). -/
def execCvsm1 (s : State) : Result := withFiniteA s (cvSmooth cfg .decay s)

/-- `CVSM 2` (R104). -/
def execCvsm2 (s : State) : Result := withFiniteA s (cvSmooth cfg .tone s)

/-- `TKO 0` (R108). -/
def execTko0 (s : State) : Result := .next (takeMix s)

/-- `TKO 1` (R108). -/
def execTko1 (s : State) : Result := .next (takeCv .decay s)

/-- `TKO 2` (R108). -/
def execTko2 (s : State) : Result := .next (takeCv .tone s)

end Sys2Proof.Machine
end

