-- ==== Sys2Proof/Machine/System.lean ====
section
/-! DEFINITION. The operations of no component: NOP (30_encoding R83) and RST (70_reset_and_hazards
R270). -/

namespace Sys2Proof.Machine

/-- `NOP` (R83): reads nothing, writes nothing, raises nothing. -/
def execNop (s : State) : Result := .next s

/-- `RST` (R270): every register at its reset value in one step; not a patch-changed event (R271). -/
def execRst (s : State) : Result := .next (resetRegisters cfg s)

end Sys2Proof.Machine
end

