-- ==== Sys2Proof/Machine/TapTempo.lean ====
section
/-! DEFINITION. The TapTempoEstimator operation TAPU (42_tap_tempo R135 to R144). -/

namespace Sys2Proof.Machine

/-- An interval is accepted only strictly between `TAP_MIN_MS` and `TAP_MAX_MS` (R136, R138). -/
def intervalAccepted (dt : Nat) : Bool := decide (tapMinMs < dt ∧ dt < tapMaxMs)

/-- A rising edge (R136): measure from the edge on record, if there is one, and always record this one. -/
def tapRise (c : Params) (s : State) : State :=
  let dt := elapsed s.portT s.lastTapTime
  let s := { s with gate := true }
  let s :=
    if s.hasEdge && intervalAccepted dt then
      { s with est := msToSamples c (fofNat dt), armed := true }
    else s
  { s with lastTapTime := s.portT, hasEdge := true }

/-- The edge logic of one `TAPU` (R136): at most one of a rising and a falling edge. -/
def tapEdge (c : Params) (s : State) : State :=
  if !s.gate && fgt s.portA c.tapHigh then tapRise c s
  else if s.gate && flt s.portA c.tapLow then { s with gate := false }
  else s

/-- The expiry test (R136), on the state the edge logic left: more than `TAP_EXPIRE_MS` since the last
recorded edge. -/
def tapExpire (s : State) : State :=
  if s.armed && decide (tapExpireMs < elapsed s.portT s.lastTapTime) then { s with armed := false }
  else s

/-- The effect of `TAPU` (R136): frozen outside the delay bank (R135). -/
def tapUpdate (c : Params) (s : State) : State :=
  if s.bank = c.delayBank then tapExpire (tapEdge c s) else s

/-- `TAPU` (R136). -/
def execTapu (s : State) : Result := withFiniteA s (tapUpdate cfg s)

end Sys2Proof.Machine
end

