-- ==== Sys2Proof/Machine/Dispatch.lean ====
section
/-! DEFINITION. The meaning of every operation of the opcode table, one arm each. -/

namespace Sys2Proof.Machine

def exec (i : Instr) (s : State) : Host.Outcome State Fault Refusal :=
  match i with
  | .nop => Sys2Proof.Machine.execNop s
  | .rst => Sys2Proof.Machine.execRst s
  | .potsm0 => Sys2Proof.Machine.execPotsm0 s
  | .potsm1 => Sys2Proof.Machine.execPotsm1 s
  | .potsm2 => Sys2Proof.Machine.execPotsm2 s
  | .cvsm1 => Sys2Proof.Machine.execCvsm1 s
  | .cvsm2 => Sys2Proof.Machine.execCvsm2 s
  | .tko0 => Sys2Proof.Machine.execTko0 s
  | .tko1 => Sys2Proof.Machine.execTko1 s
  | .tko2 => Sys2Proof.Machine.execTko2 s
  | .tapu => Sys2Proof.Machine.execTapu s
  | .btnu => Sys2Proof.Machine.execBtnu s
  | .blk => Sys2Proof.Machine.execBlk s
  | .smp => Sys2Proof.Machine.execSmp s

end Sys2Proof.Machine
end

