-- ==== Sys2Proof/Machine/Ports.lean ====
section
/-! DEFINITION. Who goes next and what that puts on the ports: the total order of operations over the
agents' command streams (20_memory R66 to R68), the command ports (30_encoding R80, R81) and the read
port of the published words (R61). -/

namespace Sys2Proof.Machine

/-- The agents that present something, in a fixed listing order. -/
def presenting (s : State) : List Agent :=
  (if s.controlQ.isEmpty then [] else [Agent.control]) ++
    (if s.audioQ.isEmpty then [] else [Agent.audio]) ++
    (if s.hostQ.isEmpty then [] else [Agent.host])

/-- Who goes next: an agent that presents alone, or one of several by the free value (R68: "either may
go first"; log 3). -/
def granted (s : State) : Option Agent :=
  match presenting s with
  | [] => none
  | [g] => some g
  | g :: g' :: gs =>
    (g :: g' :: gs)[Config.grant s.turn % (g :: g' :: gs).length]?

/-- What the granted agent presents. -/
inductive Request where
  | command (agent : Agent) (c : Command)
  | readPub (n : Nat)
  deriving DecidableEq, Repr

/-- The oldest item an agent presents, and the state without it. -/
def takeFrom (g : Agent) (s : State) : Option (Request × State) :=
  match g with
  | .control =>
    match s.controlQ with
    | [] => none
    | c :: q => some (.command .control c, { s with controlQ := q, turn := s.turn + 1 })
  | .audio =>
    match s.audioQ with
    | [] => none
    | c :: q => some (.command .audio c, { s with audioQ := q, turn := s.turn + 1 })
  | .host =>
    match s.hostQ with
    | [] => none
    | .command c :: q => some (.command .host c, { s with hostQ := q, turn := s.turn + 1 })
    | .readPub n :: q => some (.readPub n, { s with hostQ := q, turn := s.turn + 1 })

/-- The item taken in this step and the state without it; `none` when every port is idle. -/
def takeNext (s : State) : Option (Request × State) := (granted s).bind fun g => takeFrom g s

/-- No result port is driven (R81: a result is valid when its operation completes). -/
def undriven (s : State) : State :=
  { s with outL := none, outR := none, pchg := none, pubData := none }

/-- The command `c` on the command port: its operands sampled, no result driven yet (R81). -/
def onPorts (c : Command) (s : State) : State :=
  { undriven s with portT := c.t, portA := c.a, portB := c.b, portL := c.l }

/-- A read of `PUB[n]` (R61): the word as the registers stand between two operations, no side effect;
a number above 5 is refused (U6). -/
def readPublished (n : Nat) (s : State) : Result :=
  match pubWord s n with
  | some w => .next { undriven s with pubData := some w }
  | none => .refused (.pubOutOfRange n)

/-- The agent `withFetchWord` lets issue the word: the one the operation belongs to (R82). -/
def issuerOf (cw : CommandWord) : Agent :=
  match decode cw with
  | .ok i => ownerOf i
  | .error _ => .control

end Sys2Proof.Machine
end

