-- ==== Sys2Proof/Machine/Issue.lean ====
section
/-! DEFINITION. Running one command taken from a command port. -/

namespace Sys2Proof.Machine

/-- A command taken from an agent: decoded, checked against the ownership rule, and run on the operands
that came with it. Reserved words (R84) and foreign operations (R252) are refused. -/
def runCommand (agent : Agent) (c : Command) (s : State) : Result :=
  match decode c.cw with
  | .error e => .refused (.reservedCommand c.cw e)
  | .ok i =>
    if mayIssue agent i then exec i (onPorts c s) else .refused (.wrongAgent agent i)

/-- What a step does with the item it took: the command or the read of a published word; when nothing
was presented, the `NOP` of an idle command port (R83). -/
def serve (taken : Option (Request × State)) (s : State) : Result :=
  match taken with
  | none => exec .nop (undriven s)
  | some (.command agent c, s') => runCommand agent c s'
  | some (.readPub n, s') => readPublished n s'

/-- `s` with the command `c` alone on the command port of the agent its operation belongs to; what other
agents present is withdrawn, so that the very next step runs `c`. -/
def presentAlone (c : Command) (s : State) : State :=
  match issuerOf c.cw with
  | .control => { s with controlQ := [c], audioQ := [], hostQ := [] }
  | .audio => { s with controlQ := [], audioQ := [c], hostQ := [] }
  | .host => { s with controlQ := [], audioQ := [], hostQ := [.command c] }

end Sys2Proof.Machine
end

