-- ==== Sys2Proof/Machine/Step.lean ====
section
/-! DEFINITION. One step: one operation of the total order (20_memory R67). -/

namespace Sys2Proof.Machine

/-- One step of FXPIPE: the next item of the total order is taken and served. -/
def step (s : State) : Host.Outcome State Fault Refusal := serve (takeNext s) s

/-- `s` with the command word `w` presented alone, with the operands that stand on the ports of `s`
(log 6). Every command word has 8 bits (R86), so the word's width says nothing more. -/
def State.withFetchWord (s : State) (_nbits w : Nat) : State :=
  presentAlone ⟨BitVec.ofNat 8 w, s.portT, s.portA, s.portB, s.portL⟩ s

end Sys2Proof.Machine
end

