-- ==== Sys2Proof/Machine/Schedule.lean ====
section
/-! DEFINITION. Programs (00_scope R18): the pseudo-operations TICK and BLOCK (30_encoding R96, R97),
well-formed schedules (R98), and the programs a model does not refuse (R13, R61, R84, R252). -/

namespace Sys2Proof.Machine

/-- The command that issues `i`; a port the operation does not read is ignored (R81) and carries 0. -/
def command (i : Instr) (t : Time) (a b : F) (l : Bool) : Command := ⟨encode i, t, a, b, l⟩

/-- `TICK t, p0, p1, p2, v1, v2, g, b` (R96): one iteration of the control loop, not atomic. -/
def tick (t : Time) (p0 p1 p2 v1 v2 g : F) (b : Bool) : List Command :=
  [command .potsm0 0 p0 0 false, command .potsm1 0 p1 0 false, command .potsm2 0 p2 0 false,
    command .cvsm1 0 v1 0 false, command .cvsm2 0 v2 0 false,
    command .tko0 0 0 0 false, command .tko1 0 0 0 false, command .tko2 0 0 0 false,
    command .tapu t g 0 false, command .btnu t 0 0 b]

/-- `BLOCK` (R97): `BLK`, then one `SMP` per sample of the block, not atomic. -/
def block (samples : List (F × F)) : List Command :=
  command .blk 0 0 0 false :: samples.map fun x => command .smp 0 x.1 x.2 false

/-- A well-formed sequence of the audio agent (R98): `BLOCK`s of `BLOCK_SIZE` samples, and `NOP`s. -/
inductive AudioSchedule (c : Params) : List Command → Prop where
  | nil : AudioSchedule c []
  | nop (t : Time) (a b : F) (l : Bool) {q : List Command} :
      AudioSchedule c q → AudioSchedule c (command .nop t a b l :: q)
  | block (samples : List (F × F)) {q : List Command} :
      samples.length = c.blockSize → AudioSchedule c q → AudioSchedule c (block samples ++ q)

/-- Whether the time `t` may follow the time `prev` of the tick before (R98): it is no smaller, or the
counter has wrapped past 2^32 - 1 in between. Of two times a wrap cannot be told from a clock that runs
backwards (R285, U12) but by the elapsed time: less than 2^31 ms is read as a wrap (log 7). -/
def timeFollows (prev t : Time) : Bool :=
  decide (prev.toNat ≤ t.toNat) || decide (elapsed t prev < 2 ^ 31)

/-- A well-formed sequence of the control agent (R98), given the time of the tick before it, if there was
one: `TICK`s whose times never decrease except by wrapping, and `NOP`s. -/
inductive ControlSchedule : Option Time → List Command → Prop where
  | nil (prev : Option Time) : ControlSchedule prev []
  | nop (prev : Option Time) (t : Time) (a b : F) (l : Bool) {q : List Command} :
      ControlSchedule prev q → ControlSchedule prev (command .nop t a b l :: q)
  | tick (prev : Option Time) (t : Time) (p0 p1 p2 v1 v2 g : F) (b : Bool) {q : List Command} :
      (∀ u, prev = some u → timeFollows u t = true) → ControlSchedule (some t) q →
        ControlSchedule prev (tick t p0 p1 p2 v1 v2 g b ++ q)

/-- A command an agent may issue without the model refusing it: a legal word (R84) of its own (R252)
with finite operands (R13). -/
def commandLegal (agent : Agent) (c : Command) : Bool :=
  match decode c.cw with
  | .ok i => mayIssue agent i && operandsFinite i c
  | .error _ => false

/-- A request the host may make: a legal command, or a read of a published word 0..5 (R61). -/
def hostLegal : HostRequest → Bool
  | .command c => commandLegal .host c
  | .readPub n => decide (n ≤ 5)

/-- Everything the agents are about to issue is legal. -/
def programLegal (s : State) : Bool :=
  s.controlQ.all (commandLegal .control) && s.audioQ.all (commandLegal .audio) &&
    s.hostQ.all hostLegal

end Sys2Proof.Machine
end

