-- ==== Sys2Proof/Safety.lean ====
section
/-! DEFINITION. The terms in which claims about FXPIPE are made: the parts of the state each agent owns
(60_exceptions R251), the invariants, and short runs of one operation. -/

namespace Sys2Proof.Machine

/-- The registers only control operations and `RST` write (R251). -/
structure ControlRegs where
  potS : PerChan F
  cvRaw : PerCv F
  cvS : PerCv F
  cvMode : PerCv Bool
  ctl : PerChan F
  gate : Bool
  hasEdge : Bool
  lastTapTime : Time
  armed : Bool
  est : F
  level : Level
  bank : Bank
  index : Index
  preview : Bank
  btnRawPrev : Bool
  btnTChange : Time
  btnStable : Bool
  btnTPress : Time
  btnLongDone : Bool
  tInteract : Time
  deriving DecidableEq, Repr

/-- The registers only audio operations and `RST` write (R251). -/
structure AudioRegs where
  aBank : Bank
  aIndex : Index
  aCtl : PerChan F
  aArmed : Bool
  aEst : F
  dl : PerSlot F
  hpX1 : PerSide F
  hpY1 : PerSide F
  lpZ : PerSide F
  deriving DecidableEq, Repr

/-- The registers written from both domains (R28): the two counters and the DSP unit's memory. -/
structure SharedRegs where
  fadeRemaining : Nat
  warmupRemaining : Nat
  prim : Prim
  deriving DecidableEq, Repr

/-- The input ports of the command last taken (R81). -/
structure InputPorts where
  portT : Time
  portA : F
  portB : F
  portL : Bool
  deriving DecidableEq, Repr

/-- The commands still to be taken, and how many were taken: the part of the state that is the model's
schedule. -/
structure ScheduleState where
  controlQ : List Command
  audioQ : List Command
  hostQ : List HostRequest
  turn : Nat
  deriving DecidableEq, Repr

def controlRegs (s : State) : ControlRegs :=
  ⟨s.potS, s.cvRaw, s.cvS, s.cvMode, s.ctl, s.gate, s.hasEdge, s.lastTapTime, s.armed, s.est, s.level,
    s.bank, s.index, s.preview, s.btnRawPrev, s.btnTChange, s.btnStable, s.btnTPress, s.btnLongDone,
    s.tInteract⟩

def audioRegs (s : State) : AudioRegs :=
  ⟨s.aBank, s.aIndex, s.aCtl, s.aArmed, s.aEst, s.dl, s.hpX1, s.hpY1, s.lpZ⟩

def sharedRegs (s : State) : SharedRegs := ⟨s.fadeRemaining, s.warmupRemaining, s.prim⟩

def inputPorts (s : State) : InputPorts := ⟨s.portT, s.portA, s.portB, s.portL⟩

def scheduleState (s : State) : ScheduleState := ⟨s.controlQ, s.audioQ, s.hostQ, s.turn⟩

/-- The estimate is the length of some accepted interval (R136, R139 k). -/
def estFromInterval (est : F) : Prop :=
  ∃ dt : Nat, intervalAccepted dt = true ∧ est = msToSamples cfg (fofNat dt)

/-- What every operation keeps true of the selector, the tap estimator, the counters and the snapshot. -/
structure State.Inv (s : State) : Prop where
  /-- The counters stay in their ranges (R27). -/
  fade_le : s.fadeRemaining ≤ cfg.fadeLen
  warmup_le : s.warmupRemaining ≤ cfg.warmupLen
  /-- Outside LEVEL_BANK the preview equals the committed bank (R168 c). -/
  preview_eq : s.level = .patch → s.preview = s.bank
  /-- `armed` only in the delay bank (R135, R141). -/
  armed_bank : s.armed = true → s.bank = cfg.delayBank
  /-- `armed` only after an edge was recorded (R136). -/
  armed_edge : s.armed = true → s.hasEdge = true
  armed_est : s.armed = true → estFromInterval s.est
  /-- `a_armed` only if the snapshot was taken in the delay bank (R198). -/
  snapshot_bank : s.aArmed = true → s.aBank = cfg.delayBank
  snapshot_est : s.aArmed = true → estFromInterval s.aEst

/-- Every smoothed pot value is a number in [0,1] (R22, R102 c). -/
def potsInUnit (s : State) : Prop := ∀ ch, inUnit (s.potS.get ch) = true

/-- `x` lies in `[lo, hi]`, or is a NaN: what `clamp` guarantees of any argument (R14, U3). -/
def inRangeOrNaN (x lo hi : F) : Prop :=
  isNaN x = true ∨ (fle lo x = true ∧ fle x hi = true)

/-- The result a result port shows, if it is driven, lies within the output limit (R233) or is a NaN,
which only an overflow can produce (R219). -/
def outputInLimit (o : Option F) : Prop := ∀ x, o = some x → inRangeOrNaN x outLimitNeg outLimit

/-- `SMP`s one after another, each with the given dry samples on the ports (R127: the `SMP` operations
after a `COMMIT`, numbered from 0). -/
def smpRun : List (F × F) → State → Result
  | [], s => .next s
  | x :: xs, s =>
    match exec .smp { s with portA := x.1, portB := x.2 } with
    | .next t => smpRun xs t
    | .fault r => .fault r
    | .refused r => .refused r

/-- `BTNU`s one after another with the given times and raw levels: the events they raise and the state
after each (R159). -/
def btnRun : List (Time × Bool) → State → List (ButtonEvent × State)
  | [], _ => []
  | x :: xs, s =>
    let s' := { s with portT := x.1, portL := x.2 }
    match exec .btnu s' with
    | .next t => ((btnPoll s').2, t) :: btnRun xs t
    | _ => []

end Sys2Proof.Machine
end

