-- ==== Sys2Proof/Certificates/Slice0/Obligations.lean ====
section
/-! DEFINITION. The statements for the provers. `cfg` is the machine's configuration, one well-formed
configuration of which nothing else is known, so a statement about it is one about every well-formed
configuration. -/

open Sys2Proof Sys2Proof.Machine

/-! ### Command words and the step -/

/-- Decoding the command word of an operation gives the operation back (R80, R82). -/
def Obligations.EncodeThenDecode : Prop :=
  ∀ i : Instr, decode (encode i) = .ok i

/-- R85: the fourteen legal command words, and no other word decodes. -/
def Obligations.FourteenLegalCommandWords : Prop :=
  decode 0x00 = .ok .nop ∧ decode 0x01 = .ok .rst ∧
    decode 0x02 = .ok .potsm0 ∧ decode 0x12 = .ok .potsm1 ∧ decode 0x22 = .ok .potsm2 ∧
    decode 0x13 = .ok .cvsm1 ∧ decode 0x23 = .ok .cvsm2 ∧
    decode 0x04 = .ok .tko0 ∧ decode 0x14 = .ok .tko1 ∧ decode 0x24 = .ok .tko2 ∧
    decode 0x05 = .ok .tapu ∧ decode 0x06 = .ok .btnu ∧ decode 0x08 = .ok .blk ∧
    decode 0x09 = .ok .smp ∧
    ∀ cw : CommandWord,
      cw ∉ ([0x00, 0x01, 0x02, 0x12, 0x22, 0x13, 0x23, 0x04, 0x14, 0x24, 0x05, 0x06, 0x08, 0x09] :
        List CommandWord) → ∃ e, decode cw = .error e

/-- A step that takes a command whose word decodes, from an agent that may issue it, is `exec` of the
decoded operation on the state with the command on the ports (R67, R81; the queues and the ports as fields
are the model's choice, log 5). -/
def Obligations.StepRunsDecodedCommand : Prop :=
  ∀ (s s' : State) (g : Agent) (m : Command) (i : Instr),
    takeNext s = some (.command g m, s') → decode m.cw = .ok i → mayIssue g i = true →
      step s = exec i (onPorts m s')

/-- An agent that alone presents a command is served: its oldest command is taken off its queue (R18,
R67; the queues are the model's choice, log 5). -/
def Obligations.SoleAgentIsServed : Prop :=
  ∀ (s : State) (m : Command) (q : List Command),
    (s.controlQ = m :: q → s.audioQ = [] → s.hostQ = [] →
      takeNext s = some (.command .control m, { s with controlQ := q, turn := s.turn + 1 })) ∧
    (s.controlQ = [] → s.audioQ = m :: q → s.hostQ = [] →
      takeNext s = some (.command .audio m, { s with audioQ := q, turn := s.turn + 1 })) ∧
    ∀ h : List HostRequest, s.controlQ = [] → s.audioQ = [] → s.hostQ = .command m :: h →
      takeNext s = some (.command .host m, { s with hostQ := h, turn := s.turn + 1 })

/-- When several agents present something, one of them is served, and it is not said which (R68; the
free value is log 3). -/
def Obligations.SomePresenterIsServed : Prop :=
  ∀ s : State, presenting s ≠ [] →
    ∃ g ∈ presenting s, takeNext s = takeFrom g s ∧ (takeFrom g s).isSome = true

/-- Whoever is served, with a command or a read, each agent's own order is kept: the oldest item of one
queue is taken, the other queues are untouched, and every register, port and result is as before (R67; the
queues are the model's choice, log 5). -/
def Obligations.AgentOrderIsKept : Prop :=
  ∀ (s s' : State) (r : Request), takeNext s = some (r, s') →
    (match r with
    | .command .control m =>
      s.controlQ = m :: s'.controlQ ∧ s'.audioQ = s.audioQ ∧ s'.hostQ = s.hostQ
    | .command .audio m =>
      s.audioQ = m :: s'.audioQ ∧ s'.controlQ = s.controlQ ∧ s'.hostQ = s.hostQ
    | .command .host m =>
      s.hostQ = .command m :: s'.hostQ ∧ s'.controlQ = s.controlQ ∧ s'.audioQ = s.audioQ
    | .readPub n =>
      s.hostQ = .readPub n :: s'.hostQ ∧ s'.controlQ = s.controlQ ∧ s'.audioQ = s.audioQ) ∧
    s' = { s with
      controlQ := s'.controlQ, audioQ := s'.audioQ, hostQ := s'.hostQ, turn := s.turn + 1 }

/-- Reserved command words and foreign operations are refused by name, as R84 and R252 ask of a
model (log 9). -/
def Obligations.ReservedAndForeignRefused : Prop :=
  ∀ (s s' : State) (g : Agent) (m : Command), takeNext s = some (.command g m, s') →
    (∀ e, decode m.cw = .error e → step s = .refused (.reservedCommand m.cw e)) ∧
    (∀ i, decode m.cw = .ok i → mayIssue g i = false → step s = .refused (.wrongAgent g i))

/-- R252: who may issue what. -/
def Obligations.OwnersOfOperations : Prop :=
  ∀ (g : Agent) (i : Instr), mayIssue g i = true ↔
    i = .nop ∨ (g = .host ∧ i = .rst) ∨ (g = .audio ∧ (i = .blk ∨ i = .smp)) ∨
    (g = .control ∧ (i = .potsm0 ∨ i = .potsm1 ∨ i = .potsm2 ∨ i = .cvsm1 ∨ i = .cvsm2 ∨
      i = .tko0 ∨ i = .tko1 ∨ i = .tko2 ∨ i = .tapu ∨ i = .btnu))

/-- When no port presents anything a step only withdraws the results (log 5, R83). -/
def Obligations.IdleStepIsNop : Prop :=
  ∀ s : State, presenting s = [] → step s = .next (undriven s)

/-- A read of `PUB[0..5]` shows the word as the registers stand and changes no register, no input port and
no other request: it is taken off the host's queue and withdraws the earlier results. A larger number
is refused (R61, log 9). That a read is a step which shows the word in `pubData` is the model's choice
(log 5). -/
def Obligations.PublishedReads : Prop :=
  ∀ (s s' : State) (n : Nat), takeNext s = some (.readPub n, s') →
    ∃ q, s.hostQ = .readPub n :: q ∧ s' = { s with hostQ := q, turn := s.turn + 1 } ∧
      if n ≤ 5 then
        ∃ w, pubWord s n = some w ∧ step s = .next
          { s with
            hostQ := q, turn := s.turn + 1
            outL := none, outR := none, pchg := none, pubData := some w }
      else step s = .refused (.pubOutOfRange n)

/-- The fields of the published words (R33). -/
def Obligations.PublishedWordFields : Prop :=
  ∀ s : State, ∃ w0 w4,
    pubWord s 0 = some w0 ∧ w0.extractLsb' 0 2 = s.index ∧
    w0.getLsbD 2 = decide (s.bank = .b) ∧ w0.getLsbD 3 = decide (s.level = .patch) ∧
    w0.getLsbD 4 = decide (s.preview = .b) ∧ w0.extractLsb' 5 27 = 0#27 ∧
    pubWord s 1 = some s.ctl.mix ∧ pubWord s 2 = some s.ctl.decay ∧ pubWord s 3 = some s.ctl.tone ∧
    pubWord s 4 = some w4 ∧ w4.getLsbD 0 = false ∧ w4.getLsbD 1 = s.cvMode.decay ∧
    w4.getLsbD 2 = s.cvMode.tone ∧ w4.getLsbD 3 = s.armed ∧ w4.extractLsb' 4 28 = 0#28 ∧
    pubWord s 5 = some s.tInteract

/-! ### NOP and RST -/

/-- R83: `NOP` leaves every register and port as it is. -/
def Obligations.NopChangesNothing : Prop :=
  decode 0x00 = .ok .nop ∧ ∀ s : State, exec .nop s = .next s

/-- R36: every register after `RST`. -/
def Obligations.RstSetsEveryRegister : Prop :=
  ∀ s : State, ∃ t, exec .rst s = .next t ∧
    controlRegs t =
      { potS := cfg.initPot, cvRaw := cfg.initCv, cvS := cfg.initCv, cvMode := ⟨false, false⟩,
        ctl := ⟨0, 0, 0⟩, gate := false, hasEdge := false, lastTapTime := 0, armed := false,
        est := 0, level := .patch, bank := .a, index := 0, preview := .a, btnRawPrev := false,
        btnTChange := 0, btnStable := false, btnTPress := 0, btnLongDone := false,
        tInteract := 0 } ∧
    audioRegs t =
      { aBank := .a, aIndex := 0, aCtl := ⟨0, 0, 0⟩, aArmed := false, aEst := 0,
        dl := ⟨0, 0, 0, 0⟩, hpX1 := ⟨0, 0⟩, hpY1 := ⟨0, 0⟩, lpZ := ⟨0, 0⟩ } ∧
    sharedRegs t = { fadeRemaining := 0, warmupRemaining := 0, prim := cfg.dspReset }

/-- `RST` touches none of the model's own fields for the ports, the results and the schedule: the model's
choice (log 5), with R271 for `PCHG`. -/
def Obligations.RstLeavesPortsAndSchedule : Prop :=
  ∀ s : State, ∃ t, exec .rst s = .next t ∧
    inputPorts t = inputPorts s ∧ scheduleState t = scheduleState s ∧
    t.outL = s.outL ∧ t.outR = s.outR ∧ t.pchg = s.pchg ∧ t.pubData = s.pubData

/-- The launch state is a state that `RST` leaves alone, and its published words are those of R33's reset
column. -/
def Obligations.ResetStateIsAfterRst : Prop :=
  exec .rst State.reset = .next State.reset ∧
    pubWord State.reset 0 = some 0x00000008#32 ∧ pubWord State.reset 1 = some 0#32 ∧
    pubWord State.reset 2 = some 0#32 ∧ pubWord State.reset 3 = some 0#32 ∧
    pubWord State.reset 4 = some 0#32 ∧ pubWord State.reset 5 = some 0#32

/-! ### ParameterController -/

/-- R101: `POTSM ch` clamps the reading, moves the smoothed pot of its channel by one one-pole step, and
changes nothing else. -/
def Obligations.PotsmSmoothsItsChannel : Prop :=
  decode 0x02 = .ok .potsm0 ∧ decode 0x12 = .ok .potsm1 ∧ decode 0x22 = .ok .potsm2 ∧
  ∀ s : State, isFinite s.portA = true →
    let x := clamp s.portA 0x00000000#32 0x3F800000#32
    let new := fun p : F => fadd p (fmul 0x3CA3D70A#32 (fsub x p))
    exec .potsm0 s = .next { s with potS := { s.potS with mix := new s.potS.mix } } ∧
    exec .potsm1 s = .next { s with potS := { s.potS with decay := new s.potS.decay } } ∧
    exec .potsm2 s = .next { s with potS := { s.potS with tone := new s.potS.tone } }

/-- R104: `CVSM ch` keeps the raw sample, moves the smoothed voltage of its channel by one one-pole step
with the rise or the fall coefficient, and changes nothing else. -/
def Obligations.CvsmSmoothsItsChannel : Prop :=
  decode 0x13 = .ok .cvsm1 ∧ decode 0x23 = .ok .cvsm2 ∧
  ∀ s : State, isFinite s.portA = true →
    let a := s.portA
    let new := fun (rise fall v : F) => fadd v (fmul (if fgt a v then rise else fall) (fsub a v))
    exec .cvsm1 s = .next
      { s with
        cvRaw := { s.cvRaw with decay := a }
        cvS := { s.cvS with
          decay := new cfg.cvAlphaRise.decay cfg.cvAlphaFall.decay s.cvS.decay } } ∧
    exec .cvsm2 s = .next
      { s with
        cvRaw := { s.cvRaw with tone := a }
        cvS := { s.cvS with
          tone := new cfg.cvAlphaRise.tone cfg.cvAlphaFall.tone s.cvS.tone } }

/-- R106: the voltage-to-unipolar mapping, and its values at and beyond the ends of the range. -/
def Obligations.CvMapValues : Prop :=
  (∀ v : F, cvmap v = clamp (fdiv (fadd v 0x40A00000#32) 0x41200000#32) 0x00000000#32 0x3F800000#32) ∧
  (∀ v : F, fle v 0xC0A00000#32 = true → cvmap v = 0x00000000#32) ∧
  cvmap 0x00000000#32 = 0x3F000000#32 ∧
  (∀ v : F, fle 0x40A00000#32 v = true → cvmap v = 0x3F800000#32)

/-- R108: `TKO ch` resolves the mode at the thresholds 0.015 and 0.030 and selects by the new mode; for
channel 0 it copies the pot. Nothing else changes. -/
def Obligations.TkoResolvesAndSelects : Prop :=
  decode 0x04 = .ok .tko0 ∧ decode 0x14 = .ok .tko1 ∧ decode 0x24 = .ok .tko2 ∧
  ∀ s : State,
    let mode := fun (old : Bool) (pot : F) =>
      if old = false ∧ fle pot 0x3C75C28F#32 = true then true
      else if old = true ∧ fge pot 0x3CF5C28F#32 = true then false
      else old
    let m1 := mode s.cvMode.decay s.potS.decay
    let m2 := mode s.cvMode.tone s.potS.tone
    exec .tko0 s = .next { s with ctl := { s.ctl with mix := s.potS.mix } } ∧
    exec .tko1 s = .next
      { s with
        cvMode := { s.cvMode with decay := m1 }
        ctl := { s.ctl with decay := if m1 then cvmap s.cvS.decay else s.potS.decay } } ∧
    exec .tko2 s = .next
      { s with
        cvMode := { s.cvMode with tone := m2 }
        ctl := { s.ctl with tone := if m2 then cvmap s.cvS.tone else s.potS.tone } }

/-- R103, E1: the smoothed pot approaches the clamped reading and never overshoots it, for every channel
and every smoothed value of [0,1]. -/
def Obligations.PotSmootherNeverOvershoots : Prop :=
  ∀ s : State, potsInUnit s → isFinite s.portA = true →
    ∀ ic ∈ [(Instr.potsm0, Chan.mix), (Instr.potsm1, Chan.decay), (Instr.potsm2, Chan.tone)],
      ∃ t, exec ic.1 s = .next t ∧
        let x := clamp s.portA fZero fOne
        let p := s.potS.get ic.2
        let p' := t.potS.get ic.2
        (fle p x = true → fle p p' = true ∧ fle p' x = true) ∧
        (fle x p = true → fle x p' = true ∧ fle p' p = true)

/-- Every step keeps every smoothed pot value in [0,1] (R22, R102 c). -/
def Obligations.StepKeepsPotsInUnit : Prop :=
  ∀ s t : State, potsInUnit s → step s = .next t → potsInUnit t

/-- The smoothed pot values at reset lie in [0,1] (R8, R36). -/
def Obligations.ResetPotsInUnit : Prop :=
  potsInUnit State.reset

/-- R109 e: after `TKO ch` the control value is in [0,1], if the pot is and, for a CV channel, the
smoothed voltage is a number. -/
def Obligations.TkoControlValueInUnit : Prop :=
  ∀ s : State, potsInUnit s →
    (∃ t, exec .tko0 s = .next t ∧ inUnit t.ctl.mix = true) ∧
    (isNaN s.cvS.decay = false → ∃ t, exec .tko1 s = .next t ∧ inUnit t.ctl.decay = true) ∧
    (isNaN s.cvS.tone = false → ∃ t, exec .tko2 s = .next t ∧ inUnit t.ctl.tone = true)

/-- R23: only a pot at or below `eps_on` lets `cv_mode` become true, and only one at or above `eps_off`,
or a reset, lets it become false, whatever operation runs. -/
def Obligations.CvModeChangesOnlyAtThresholds : Prop :=
  ∀ (i : Instr) (s t : State) (ch : CvChan), exec i s = .next t →
    (s.cvMode.get ch = false → t.cvMode.get ch = true →
      fle (s.potS.get ch.toChan) (epsOn ch) = true) ∧
    (s.cvMode.get ch = true → t.cvMode.get ch = false →
      i = .rst ∨ fge (s.potS.get ch.toChan) (epsOff ch) = true)

/-- R109 c: a mode that a `TKO` has just resolved does not change again at the next `TKO` with the same
pot value: no oscillation at any single crossing value. -/
def Obligations.TkoDoesNotOscillate : Prop :=
  ∀ s : State,
    (∃ t u, exec .tko1 s = .next t ∧ exec .tko1 t = .next u ∧ u = t) ∧
    (∃ t u, exec .tko2 s = .next t ∧ exec .tko2 t = .next u ∧ u = t)

/-! ### TapTempoEstimator -/

/-- R136: one `TAPU`, field by field. A rising edge needs the gate flag 0 and the input above `TAP_HIGH`,
a falling edge the flag 1 and the input below `TAP_LOW`; an interval is accepted strictly between 50 and
2000 ms; expiry is more than 1800 ms since the last edge. Outside the delay bank nothing changes. -/
def Obligations.TapuUpdatesEstimator : Prop :=
  decode 0x05 = .ok .tapu ∧
  ∀ s : State, isFinite s.portA = true →
    let rise := !s.gate && fgt s.portA cfg.tapHigh
    let fall := s.gate && flt s.portA cfg.tapLow
    let dt := (s.portT - s.lastTapTime).toNat
    let accepted := rise && s.hasEdge && decide (50 < dt ∧ dt < 2000)
    exec .tapu s = .next
      (if s.bank = cfg.delayBank then
        { s with
          gate := rise || (s.gate && !fall)
          hasEdge := rise || s.hasEdge
          lastTapTime := if rise then s.portT else s.lastTapTime
          est := if accepted then fmul (fdiv (fofNat dt) 0x447A0000#32) cfg.sampleRate else s.est
          armed :=
            if rise then accepted || s.armed else s.armed && !decide (1800 < dt) }
      else s)

/-- R141: a `BTNU` that leaves the delay bank clears `armed` and nothing else of the estimator. -/
def Obligations.LeavingDelayBankDisarms : Prop :=
  ∀ s t : State, exec .btnu s = .next t → s.bank = cfg.delayBank → t.bank ≠ cfg.delayBank →
    t.armed = false ∧ t.gate = s.gate ∧ t.hasEdge = s.hasEdge ∧
      t.lastTapTime = s.lastTapTime ∧ t.est = s.est

/-! ### BankPatchStateMachine and COMMIT -/

/-- R156, steps 1 to 3: the button registers after a `BTNU`, and what a `BTNU` never touches. -/
def Obligations.BtnuButtonRegisters : Prop :=
  ∀ s : State, ∃ t, exec .btnu s = .next t ∧
    let accept := s.portL == s.btnRawPrev && s.portL != s.btnStable &&
      decide (25 ≤ (s.portT - s.btnTChange).toNat)
    let held := (s.portT - s.btnTPress).toNat
    t.btnRawPrev = s.portL ∧
    t.btnTChange = (if s.portL = s.btnRawPrev then s.btnTChange else s.portT) ∧
    t.btnStable = (if accept then s.portL else s.btnStable) ∧
    t.tInteract = (if accept then s.portT else s.tInteract) ∧
    t.btnTPress = (if accept && s.portL then s.portT else s.btnTPress) ∧
    t.btnLongDone =
      (if accept then !s.portL && s.btnLongDone
        else s.btnLongDone || (s.btnStable && decide (800 ≤ held))) ∧
    audioRegs t = audioRegs s ∧ inputPorts t = inputPorts s ∧ scheduleState t = scheduleState s ∧
    t.potS = s.potS ∧ t.cvRaw = s.cvRaw ∧ t.cvS = s.cvS ∧ t.cvMode = s.cvMode ∧ t.ctl = s.ctl ∧
    t.gate = s.gate ∧ t.hasEdge = s.hasEdge ∧ t.lastTapTime = s.lastTapTime ∧ t.est = s.est ∧
    t.outL = s.outL ∧ t.outR = s.outR ∧ t.pubData = s.pubData

/-- R156, R157 d and e: which event a `BTNU` raises. -/
def Obligations.BtnuEventRaised : Prop :=
  ∀ s : State,
    let accept := s.portL == s.btnRawPrev && s.portL != s.btnStable &&
      decide (25 ≤ (s.portT - s.btnTChange).toNat)
    let held := (s.portT - s.btnTPress).toNat
    (btnPoll s).2 =
      if s.btnLongDone || (accept && s.portL) then .none
      else if accept then (if held < 800 then .short else .long)
      else if s.btnStable && decide (800 ≤ held) then .long
      else .none

/-- R167: the whole selector as a table over the level and the event, with `COMMIT` and `patch_changed`. -/
def Obligations.BtnuTransitionTable : Prop :=
  ∀ s : State, ∃ t, exec .btnu s = .next t ∧
    let committed := t.fadeRemaining = cfg.fadeLen ∧
      t.warmupRemaining =
        (if cfg.needsWarmup (patchNo t.bank t.index) then cfg.warmupLen else 0) ∧
      t.prim = cfg.dspReset ∧ t.pchg = some true
    let quiet := sharedRegs t = sharedRegs s ∧ t.pchg = some false
    match (btnPoll s).2, s.level with
    | .none, _ =>
      t.level = s.level ∧ t.bank = s.bank ∧ t.index = s.index ∧ t.preview = s.preview ∧
        t.armed = s.armed ∧ quiet
    | .short, .bank =>
      t.level = .bank ∧ t.bank = s.bank ∧ t.index = s.index ∧
        t.preview = (if s.preview = .a then .b else .a) ∧ t.armed = s.armed ∧ quiet
    | .short, .patch =>
      t.level = .patch ∧ t.bank = s.bank ∧ t.index.toNat = (s.index.toNat + 1) % 4 ∧
        t.preview = s.preview ∧ t.armed = s.armed ∧ committed
    | .long, .bank =>
      t.level = .patch ∧ t.bank = s.preview ∧ t.index = 0 ∧ t.preview = s.preview ∧
        t.armed = (if s.bank = cfg.delayBank ∧ s.preview ≠ cfg.delayBank then false
          else s.armed) ∧ committed
    | .long, .patch =>
      t.level = .bank ∧ t.bank = s.bank ∧ t.index = s.index ∧ t.preview = s.bank ∧
        t.armed = s.armed ∧ quiet

/-- R159: between an accepted press and the matching accepted release exactly one of the two events is
raised, however the button is polled. -/
def Obligations.OneEventPerPress : Prop :=
  ∀ (polls : List (Time × Bool)) (s : State), s.btnStable = true → s.btnLongDone = false →
    (∀ r ∈ (btnRun polls s).dropLast, r.2.btnStable = true) →
    (∃ r, (btnRun polls s).getLast? = some r ∧ r.2.btnStable = false) →
    ((btnRun polls s).filter fun r => r.1 != .none).length = 1

/-- R168 b: `bank` changes only by a long press at LEVEL_BANK, `index` only by a short press at
LEVEL_PATCH or a long press at LEVEL_BANK, or by a reset. -/
def Obligations.OnlyEventsMoveTheSelector : Prop :=
  ∀ (i : Instr) (s t : State), exec i s = .next t →
    (t.bank ≠ s.bank →
      i = .rst ∨ (i = .btnu ∧ s.level = .bank ∧ (btnPoll s).2 = .long)) ∧
    (t.index ≠ s.index →
      i = .rst ∨ (i = .btnu ∧ s.level = .bank ∧ (btnPoll s).2 = .long) ∨
        (i = .btnu ∧ s.level = .patch ∧ (btnPoll s).2 = .short))

/-- R28, R123 d: in any step of the machine the counters only fall, unless the step was a `BTNU` that
reports a patch change, which arms them and resets the DSP unit. -/
def Obligations.CountersRiseOnlyByCommit : Prop :=
  ∀ s t : State, step s = .next t →
    (t.fadeRemaining ≤ s.fadeRemaining ∧ t.warmupRemaining ≤ s.warmupRemaining) ∨
    (t.pchg = some true ∧ t.fadeRemaining = cfg.fadeLen ∧
      t.warmupRemaining =
        (if cfg.needsWarmup (patchNo t.bank t.index) then cfg.warmupLen else 0) ∧
      t.prim = cfg.dspReset)

/-! ### Envelope -/

/-- R127: after a `COMMIT` the counters fall by one per `SMP` and stay at 0; the gains applied are
`1 - F(remaining)/F(len)`, 0.0 at the first sample and 1.0 from sample `len` on. -/
def Obligations.RampsRunDown : Prop :=
  ∀ (samples : List (F × F)) (s : State),
    (∀ x ∈ samples, isFinite x.1 = true ∧ isFinite x.2 = true) →
    ∃ t, smpRun samples s = .next t ∧
      t.fadeRemaining = s.fadeRemaining - samples.length ∧
      t.warmupRemaining = s.warmupRemaining - samples.length ∧
      fadeGain cfg t = fsub fOne
        (fdiv (fofNat (s.fadeRemaining - samples.length)) (fofNat cfg.fadeLen)) ∧
      warmupGain cfg t = fsub fOne
        (fdiv (fofNat (s.warmupRemaining - samples.length)) (fofNat cfg.warmupLen)) ∧
      (s.fadeRemaining = cfg.fadeLen →
        fadeGain cfg s = fZero ∧ (cfg.fadeLen ≤ samples.length → fadeGain cfg t = fOne)) ∧
      (s.warmupRemaining = cfg.warmupLen →
        warmupGain cfg s = fZero ∧ (cfg.warmupLen ≤ samples.length → warmupGain cfg t = fOne))

/-- R128: the gains never fall as the counters run down. -/
def Obligations.GainsNeverFall : Prop :=
  ∀ s t : State,
    (t.fadeRemaining ≤ s.fadeRemaining → s.fadeRemaining ≤ cfg.fadeLen →
      fle (fadeGain cfg s) (fadeGain cfg t) = true) ∧
    (t.warmupRemaining ≤ s.warmupRemaining → s.warmupRemaining ≤ cfg.warmupLen →
      fle (warmupGain cfg s) (warmupGain cfg t) = true)

/-! ### AudioFrameEngine and OutputConditioner -/

/-- R186: `BLK` latches the seven published items and changes nothing else. -/
def Obligations.BlkLatchesSnapshot : Prop :=
  decode 0x08 = .ok .blk ∧
  ∀ s : State, exec .blk s = .next
    { s with
      aBank := s.bank, aIndex := s.index, aCtl := s.ctl, aArmed := s.armed, aEst := s.est }

/-- R187, R202, R203, R231 to R233, R126: stages 2 to 7 of `SMP`, given the native parameters and delay
lengths of stage 1, and that nothing else changes. -/
def Obligations.SmpStages : Prop :=
  decode 0x09 = .ok .smp ∧
  ∀ s : State, isFinite s.portA = true → isFinite s.portB = true →
    let gf := fsub fOne (fdiv (fofNat s.fadeRemaining) (fofNat cfg.fadeLen))
    let gw := fsub fOne (fdiv (fofNat s.warmupRemaining) (fofNat cfg.warmupLen))
    let w := cfg.dspStep (patchNo s.aBank s.aIndex) (natParams cfg s) gw s.portA s.portB s.prim
    let m := clamp s.aCtl.mix fZero fOne
    let yL := fadd (fmul (fsub fOne m) s.portA) (fmul m (fmul gf w.wetL))
    let yR := fadd (fmul (fsub fOne m) s.portB) (fmul m (fmul gf w.wetR))
    let hL := fadd (fsub yL s.hpX1.left) (fmul cfg.dcR s.hpY1.left)
    let hR := fadd (fsub yR s.hpX1.right) (fmul cfg.dcR s.hpY1.right)
    let zL := fadd s.lpZ.left (fmul cfg.lpA (fsub hL s.lpZ.left))
    let zR := fadd s.lpZ.right (fmul cfg.lpA (fsub hR s.lpZ.right))
    exec .smp s = .next
      { s with
        dl := nextDl cfg s
        prim := w.prim
        hpX1 := ⟨yL, yR⟩
        hpY1 := ⟨hL, hR⟩
        lpZ := ⟨zL, zR⟩
        outL := some (clamp zL 0xBF99999A#32 0x3F99999A#32)
        outR := some (clamp zR 0xBF99999A#32 0x3F99999A#32)
        fadeRemaining := if 0 < s.fadeRemaining then s.fadeRemaining - 1 else 0
        warmupRemaining := if 0 < s.warmupRemaining then s.warmupRemaining - 1 else 0 }

/-- R187 stage 1, R190 to R200, with the fields of the header byte of R92: the native parameter and the
next smoother state of each slot. The driving control is `a_ctl[src]` clamped to [0,1], `src` being
`H[2:1]`, which is no 3 in a slot in use (R93). -/
def Obligations.SlotParameters : Prop :=
  ∀ (s : State) (j : Slot),
    let d := cfg.lut (patchNo s.aBank s.aIndex) j
    let src := d.h.extractLsb' 1 2
    let t := clamp (if src = 0 then s.aCtl.mix else if src = 1 then s.aCtl.decay else s.aCtl.tone)
      0x00000000#32 0x3F800000#32
    let linear := fadd d.lo (fmul t (fsub d.hi d.lo))
    let v :=
      if d.h.getLsbD 3 = false then linear
      else if flt d.lo cfg.epsDen || flt d.hi cfg.epsDen then linear
      else fmul d.lo (cfg.powf (fdiv d.hi d.lo) t)
    let req :=
      if d.h.getLsbD 6 = true ∧ s.aArmed = true then s.aEst
      else fmul (fdiv v 0x447A0000#32) cfg.sampleRate
    let tgt := clamp req d.cmin d.cmax
    let dl := s.dl.get j
    let dl' := fadd dl (fmul cfg.dlyBeta (fsub tgt dl))
    (natParams cfg s).get j =
      (if d.h.getLsbD 0 = false then 0x00000000#32
        else if d.h.extractLsb' 4 2 = 2 then clamp dl' d.cmin d.cmax
        else clamp v d.cmin d.cmax) ∧
    (nextDl cfg s).get j =
      (if d.h.getLsbD 0 = true ∧ d.h.extractLsb' 4 2 = 2 then dl' else dl)

/-- R195: every native parameter of a valid slot lies in its safe range, whatever the controls, the tap
estimate and the smoother hold, unless an overflow made it a NaN (R219, log 11). -/
def Obligations.NativeParametersInSafeRange : Prop :=
  ∀ (s : State) (j : Slot),
    descValid (cfg.lut (patchNo s.aBank s.aIndex) j) = true →
    inRangeOrNaN ((natParams cfg s).get j) (cfg.lut (patchNo s.aBank s.aIndex) j).cmin
      (cfg.lut (patchNo s.aBank s.aIndex) j).cmax

/-- R233: every output lies within ±1.2, unless an overflow made it a NaN (R219, log 11). -/
def Obligations.OutputsWithinLimit : Prop :=
  ∀ s : State, isFinite s.portA = true → isFinite s.portB = true →
    ∃ t, exec .smp s = .next t ∧ t.outL.isSome = true ∧ t.outR.isSome = true ∧
      outputInLimit t.outL ∧ outputInLimit t.outR

/-- R203: a mix of 0.0 gives the dry sample, a mix of 1.0 the faded wet one. -/
def Obligations.MixEndsAreDryAndWet : Prop :=
  ∀ gf dry wet : F, isFinite dry = true → isFinite (fmul gf wet) = true →
    feq (mixDown fZero gf dry wet) dry = true ∧
    feq (mixDown fOne gf dry wet) (fmul gf wet) = true

/-- R191, R192: both maps give `lo` at control 0.0. -/
def Obligations.MapsStartAtLo : Prop :=
  ∀ lo hi : F, isFinite lo = true →
    (isFinite (fsub hi lo) = true → feq (lin fZero lo hi) lo = true) ∧
    (isPosFinite (fdiv hi lo) = true → expi cfg fZero lo hi = lo)

/-! ### The machine as a whole -/

/-- R13: exactly the operations that read an F port refuse, exactly on a non-finite operand (the model's
refusal, log 10), and every operation completes otherwise (R240). -/
def Obligations.RefusedOnlyOnNonFinite : Prop :=
  ∀ (i : Instr) (s : State),
    let badA := isFinite s.portA = false ∧
      (i = .potsm0 ∨ i = .potsm1 ∨ i = .potsm2 ∨ i = .cvsm1 ∨ i = .cvsm2 ∨ i = .tapu ∨ i = .smp)
    let badB := isFinite s.portB = false ∧ i = .smp
    (badA ∨ badB → exec i s = .refused .nonFiniteOperand) ∧
    (¬(badA ∨ badB) → ∃ t, exec i s = .next t)

/-- R240: a program whose words are legal, whose issuers own them and whose operands are finite never
stops, whichever agent is served at each step. What is legal is the model's precondition (log 9, log 10). -/
def Obligations.LegalProgramsNeverStop : Prop :=
  ∀ (k : Nat) (s : State), programLegal s = true →
    ∃ t : State, Host.Core.run core k s = .next t ∧ programLegal t = true

/-- R98: well-formed schedules (as log 7 reads them) with finite operands are legal programs. -/
def Obligations.WellFormedSchedulesAreLegal : Prop :=
  (∀ q, AudioSchedule cfg q → (∀ m ∈ q, isFinite m.a = true ∧ isFinite m.b = true) →
    q.all (commandLegal .audio) = true) ∧
  (∀ prev q, ControlSchedule prev q → (∀ m ∈ q, isFinite m.a = true ∧ isFinite m.b = true) →
    q.all (commandLegal .control) = true)

/-- R251: audio operations never write a control-domain register, control operations never an audio-domain
one, and the registers of both domains move only by `BTNU`, `SMP` and `RST`. -/
def Obligations.AgentsWriteOnlyWhatTheyOwn : Prop :=
  ∀ (i : Instr) (s t : State), exec i s = .next t →
    (mayIssue .audio i = true → controlRegs t = controlRegs s) ∧
    (mayIssue .control i = true → audioRegs t = audioRegs s) ∧
    (i ≠ .btnu → i ≠ .smp → i ≠ .rst → sharedRegs t = sharedRegs s) ∧
    inputPorts t = inputPorts s ∧ scheduleState t = scheduleState s

/-- R69, R216 i, R217: what `SMP` answers and leaves in its domain depends on its operands, the snapshot,
the smoother and filter memory, the counters and `prim` only: no control-domain register has a part
in it. -/
def Obligations.SmpReadsOnlyItsDomain : Prop :=
  ∀ s t s' : State, audioRegs s = audioRegs t → sharedRegs s = sharedRegs t →
    s.portA = t.portA → s.portB = t.portB → exec .smp s = .next s' →
    ∃ t', exec .smp t = .next t' ∧ audioRegs s' = audioRegs t' ∧ sharedRegs s' = sharedRegs t' ∧
      s'.outL = t'.outL ∧ s'.outR = t'.outR

/-- R29, and the columns "read by" of R22 to R31: the control domain evolves without regard to the audio
domain: no register of `audioRegs` or
`sharedRegs` has a part in what a control operation leaves in the control domain, or in `PCHG`. -/
def Obligations.ControlIgnoresAudio : Prop :=
  ∀ (i : Instr) (s t s' : State), mayIssue .control i = true → controlRegs s = controlRegs t →
    inputPorts s = inputPorts t → s.pchg = t.pchg → exec i s = .next s' →
    ∃ t', exec i t = .next t' ∧ controlRegs s' = controlRegs t' ∧ s'.pchg = t'.pchg

/-- Every step keeps the invariant of the selector, the estimator, the counters and the snapshot, for
every interleaving of the agents (R27, R135, R136, R141, R168 c, R198). -/
def Obligations.StepKeepsSelectorInvariant : Prop :=
  ∀ s t : State, s.Inv → step s = .next t → t.Inv

/-- The invariant holds at reset. -/
def Obligations.ResetMeetsSelectorInvariant : Prop :=
  State.reset.Inv
end

