-- ==== Sys2Proof/Laws/Rounding.lean ====
section
/-! SUPPORT. Rounding to the nearest binary32 magnitude is monotone, and exact on the values a magnitude
has. Every bound on a rounded result follows from `roundBits_le`, `le_roundBits` and `roundBits_mono`. -/

namespace Sys2Proof.Machine

/-! ### Rounding to whole numbers -/

theorem roundDiv_le {n d g : Nat} (hd : 0 < d) (h : n ≤ g * d) : roundDiv n d ≤ g := by
  have hdm := Nat.div_add_mod n d
  have hlt := Nat.mod_lt n hd
  unfold roundDiv
  have hle : n / d ≤ g := Nat.div_le_of_le_mul (by rwa [Nat.mul_comm] at h)
  split
  · exact hle
  · rename_i hc
    rcases Nat.lt_or_ge (n / d) g with hg | hg
    · exact hg
    · have : n / d = g := le_antisymm hle hg
      have : n % d = 0 := by
        rw [this, Nat.mul_comm] at hdm
        omega
      simp [this] at hc
      omega

theorem le_roundDiv {n d g : Nat} (hd : 0 < d) (h : g * d ≤ n) : g ≤ roundDiv n d := by
  have hle : g ≤ n / d := (Nat.le_div_iff_mul_le hd).2 h
  unfold roundDiv
  split <;> omega

theorem roundDiv_mono {n d n' d' : Nat} (hd : 0 < d) (hd' : 0 < d') (h : n * d' ≤ n' * d) :
    roundDiv n d ≤ roundDiv n' d' := by
  have e := Nat.div_add_mod n d
  have e' := Nat.div_add_mod n' d'
  have l := Nat.mod_lt n hd
  have hk : n / d ≤ n' / d' := by
    rw [Nat.le_div_iff_mul_le hd']
    have h1 : n / d * d ≤ n := Nat.div_mul_le_self n d
    have h2 : n / d * d' * d ≤ n' * d := by nlinarith
    exact Nat.le_of_mul_le_mul_right h2 hd
  rcases Nat.lt_or_ge (n / d) (n' / d') with hlt | hge
  · have h1 : roundDiv n d ≤ n / d + 1 := by unfold roundDiv; split <;> omega
    have h2 : n' / d' ≤ roundDiv n' d' := by unfold roundDiv; split <;> omega
    omega
  · have hq : n / d = n' / d' := le_antisymm hk hge
    have hr : n % d * d' ≤ n' % d' * d := by
      have h3 : d * (n / d) * d' + n % d * d' = n * d' := by rw [← Nat.add_mul, e]
      have h4 : d' * (n' / d') * d + n' % d' * d = n' * d := by rw [← Nat.add_mul, e']
      have h5 : d * (n / d) * d' = d' * (n' / d') * d := by rw [hq]; ring
      omega
    unfold roundDiv
    rw [hq]
    split
    · split <;> omega
    · rename_i hup
      split
      · rename_i hdn
        exfalso
        apply hup
        rcases hdn with h6 | ⟨h6, h7⟩
        · left
          by_contra hc
          have : d * d' ≤ 2 * (n % d) * d' := Nat.mul_le_mul_right d' (by omega)
          have : 2 * (n' % d') * d < d' * d := Nat.mul_lt_mul_of_pos_right h6 hd
          nlinarith
        · have h8 : 2 * (n % d) * d' ≤ d' * d := by nlinarith
          have h9 : 2 * (n % d) ≤ d := by
            by_contra hc
            have : d * d' < 2 * (n % d) * d' := Nat.mul_lt_mul_of_pos_right (by omega) hd'
            nlinarith
          omega
      · exact le_refl _

/-! ### Significand and binade -/

/-- Magnitude bits as binade and significand: `binade b * 2^23 + significand b = b`. -/
def binade (b : Nat) : Nat := b / 2 ^ 23 - 1

/-- The significand of magnitude bits, below 2^23 only in the lowest binade. -/
def significand (b : Nat) : Nat := if b < 2 ^ 23 then b else 2 ^ 23 + b % 2 ^ 23

theorem binade_significand (b : Nat) : binade b * 2 ^ 23 + significand b = b := by
  unfold binade significand
  split <;> omega

theorem significand_lt (b : Nat) : significand b < 2 ^ 24 := by
  unfold significand
  split <;> omega

theorem le_significand {b : Nat} (h : 0 < binade b) : 2 ^ 23 ≤ significand b := by
  unfold binade at h
  unfold significand
  split <;> omega

theorem magValue_eq (b : Nat) : magValue b = significand b * 2 ^ binade b := by
  unfold magValue significand binade
  split
  · rw [Nat.div_eq_of_lt ‹_›]
    simp
  · rfl

/-! ### Rounding to magnitude bits -/

theorem roundShift_le {n d t : Nat} (h : n / d < 2 ^ (t + 24)) : roundShift n d ≤ t := by
  unfold roundShift
  rcases Nat.eq_zero_or_pos (n / d) with h0 | h0
  · simp [h0]
  · have := (Nat.log2_lt (by omega : n / d ≠ 0)).2 h
    omega

theorem le_roundShift {n d t : Nat} (h : 2 ^ (t + 23) ≤ n / d) : t ≤ roundShift n d := by
  unfold roundShift
  have h0 : n / d ≠ 0 := by
    have := Nat.two_pow_pos (t + 23)
    omega
  have := (Nat.le_log2 h0).2 h
  omega

theorem quot_lt (n d : Nat) : n / d < 2 ^ (roundShift n d + 24) := by
  rcases Nat.eq_zero_or_pos (n / d) with h0 | h0
  · rw [h0]; exact Nat.two_pow_pos _
  · have h1 : n / d < 2 ^ (Nat.log2 (n / d) + 1) := Nat.lt_log2_self
    refine lt_of_lt_of_le h1 (Nat.pow_le_pow_right (by omega) ?_)
    unfold roundShift
    omega

theorem le_quot {n d : Nat} (h : 0 < roundShift n d) : 2 ^ (roundShift n d + 23) ≤ n / d := by
  have h0 : n / d ≠ 0 := by
    intro h0
    simp [roundShift, h0] at h
  have h1 := Nat.log2_self_le h0
  unfold roundShift at *
  rwa [Nat.sub_add_cancel (by omega)]

theorem scaled_pos {d : Nat} (hd : 0 < d) (k : Nat) : 0 < d * 2 ^ k :=
  Nat.mul_pos hd (Nat.two_pow_pos k)

theorem roundedSig_le {n d : Nat} (hd : 0 < d) :
    roundDiv n (d * 2 ^ roundShift n d) ≤ 2 ^ 24 := by
  apply roundDiv_le (scaled_pos hd _)
  have h := quot_lt n d
  rw [Nat.div_lt_iff_lt_mul hd] at h
  calc n ≤ 2 ^ (roundShift n d + 24) * d := h.le
    _ = 2 ^ 24 * (d * 2 ^ roundShift n d) := by rw [Nat.pow_add]; ring

theorem le_roundedSig {n d : Nat} (hd : 0 < d) (h : 0 < roundShift n d) :
    2 ^ 23 ≤ roundDiv n (d * 2 ^ roundShift n d) := by
  apply le_roundDiv (scaled_pos hd _)
  have h := le_quot h
  rw [Nat.le_div_iff_mul_le hd] at h
  calc 2 ^ 23 * (d * 2 ^ roundShift n d) = 2 ^ (roundShift n d + 23) * d := by
        rw [Nat.pow_add]; ring
    _ ≤ n := h

/-- A value at most that of the magnitude bits `b` rounds to at most `b`. -/
theorem roundBits_le {n d b : Nat} (hd : 0 < d) (h : n ≤ magValue b * d) : roundBits n d ≤ b := by
  rw [magValue_eq] at h
  have hb := binade_significand b
  have hs := significand_lt b
  have hq : roundShift n d ≤ binade b := by
    apply roundShift_le
    rw [Nat.div_lt_iff_lt_mul hd, Nat.pow_add]
    refine lt_of_le_of_lt h (Nat.mul_lt_mul_of_pos_right ?_ hd)
    rw [Nat.mul_comm]
    exact Nat.mul_lt_mul_of_pos_left hs (Nat.two_pow_pos _)
  unfold roundBits
  rcases Nat.lt_or_ge (roundShift n d) (binade b) with hlt | hge
  · have h1 := roundedSig_le (n := n) hd
    have h2 := le_significand (b := b) (by omega)
    have h3 : (roundShift n d + 1) * 2 ^ 23 ≤ binade b * 2 ^ 23 := Nat.mul_le_mul_right _ hlt
    omega
  · have he : roundShift n d = binade b := le_antisymm hq hge
    have h1 : roundDiv n (d * 2 ^ roundShift n d) ≤ significand b := by
      apply roundDiv_le (scaled_pos hd _)
      rw [he]
      calc n ≤ significand b * 2 ^ binade b * d := h
        _ = significand b * (d * 2 ^ binade b) := by ring
    rw [he] at h1 ⊢
    omega

/-- A value at least that of the magnitude bits `b` rounds to at least `b`. -/
theorem le_roundBits {n d b : Nat} (hd : 0 < d) (h : magValue b * d ≤ n) : b ≤ roundBits n d := by
  rw [magValue_eq] at h
  have hb := binade_significand b
  have hs := significand_lt b
  have hq : binade b ≤ roundShift n d := by
    rcases Nat.eq_zero_or_pos (binade b) with h0 | h0
    · omega
    · apply le_roundShift
      rw [Nat.le_div_iff_mul_le hd]
      refine le_trans (Nat.mul_le_mul_right d ?_) h
      rw [Nat.pow_add, Nat.mul_comm]
      exact Nat.mul_le_mul_right _ (le_significand h0)
  unfold roundBits
  rcases Nat.lt_or_ge (binade b) (roundShift n d) with hlt | hge
  · have h1 := le_roundedSig (n := n) hd (by omega)
    have h3 : (binade b + 1) * 2 ^ 23 ≤ roundShift n d * 2 ^ 23 := Nat.mul_le_mul_right _ hlt
    omega
  · have he : roundShift n d = binade b := le_antisymm hge hq
    have h1 : significand b ≤ roundDiv n (d * 2 ^ roundShift n d) := by
      apply le_roundDiv (scaled_pos hd _)
      rw [he]
      calc significand b * (d * 2 ^ binade b) = significand b * 2 ^ binade b * d := by ring
        _ ≤ n := h
    rw [he] at h1 ⊢
    omega

/-- Rounding is monotone. -/
theorem roundBits_mono {n d n' d' : Nat} (hd : 0 < d) (hd' : 0 < d') (h : n * d' ≤ n' * d) :
    roundBits n d ≤ roundBits n' d' := by
  have hk : n / d ≤ n' / d' := by
    rw [Nat.le_div_iff_mul_le hd']
    have h1 : n / d * d ≤ n := Nat.div_mul_le_self n d
    have h2 : n / d * d' * d ≤ n' * d := by nlinarith
    exact Nat.le_of_mul_le_mul_right h2 hd
  have hq : roundShift n d ≤ roundShift n' d' := by
    apply roundShift_le
    exact lt_of_le_of_lt hk (quot_lt n' d')
  unfold roundBits
  rcases Nat.lt_or_ge (roundShift n d) (roundShift n' d') with hlt | hge
  · have h1 := roundedSig_le (n := n) hd
    have h2 := le_roundedSig (n := n') hd' (by omega)
    have h3 : (roundShift n d + 1) * 2 ^ 23 ≤ roundShift n' d' * 2 ^ 23 :=
      Nat.mul_le_mul_right _ hlt
    omega
  · have he : roundShift n d = roundShift n' d' := le_antisymm hq hge
    have h1 : roundDiv n (d * 2 ^ roundShift n d) ≤ roundDiv n' (d' * 2 ^ roundShift n d) := by
      apply roundDiv_mono (scaled_pos hd _) (scaled_pos hd' _)
      calc n * (d' * 2 ^ roundShift n d) = n * d' * 2 ^ roundShift n d := by ring
        _ ≤ n' * d * 2 ^ roundShift n d := Nat.mul_le_mul_right _ h
        _ = n' * (d * 2 ^ roundShift n d) := by ring
    rw [← he]
    omega

/-- A value that magnitude bits have rounds to those bits. -/
theorem roundBits_exact {d b : Nat} (hd : 0 < d) : roundBits (magValue b * d) d = b :=
  le_antisymm (roundBits_le hd le_rfl) (le_roundBits hd le_rfl)

theorem magValue_strictMono {b c : Nat} (h : b < c) : magValue b < magValue c := by
  by_contra hc
  have h1 : roundBits (magValue c * 1) 1 ≤ b := roundBits_le (by omega) (by omega)
  rw [roundBits_exact (by omega)] at h1
  omega

theorem magValue_le_iff {b c : Nat} : magValue b ≤ magValue c ↔ b ≤ c := by
  constructor
  · intro h
    by_contra hc
    have := magValue_strictMono (Nat.lt_of_not_le hc)
    omega
  · intro h
    rcases Nat.lt_or_ge b c with h1 | h1
    · exact (magValue_strictMono h1).le
    · rw [le_antisymm h h1]

theorem magValue_zero : magValue 0 = 0 := rfl

theorem magValue_pos {b : Nat} (h : 0 < b) : 0 < magValue b := by
  have := magValue_strictMono h
  rwa [magValue_zero] at this

/-! ### Rounding with the overflow to infinity -/

theorem roundMag_le_infMag (n d : Nat) : roundMag n d ≤ infMag := Nat.min_le_right _ _

theorem roundMag_le {n d b : Nat} (hd : 0 < d) (h : n ≤ magValue b * d) : roundMag n d ≤ b :=
  le_trans (Nat.min_le_left _ _) (roundBits_le hd h)

theorem le_roundMag {n d b : Nat} (hd : 0 < d) (hb : b ≤ infMag) (h : magValue b * d ≤ n) :
    b ≤ roundMag n d :=
  Nat.le_min.2 ⟨le_roundBits hd h, hb⟩

theorem roundMag_mono {n d n' d' : Nat} (hd : 0 < d) (hd' : 0 < d') (h : n * d' ≤ n' * d) :
    roundMag n d ≤ roundMag n' d' := by
  have := roundBits_mono hd hd' h
  unfold roundMag
  omega

theorem roundMag_exact {d b : Nat} (hd : 0 < d) (hb : b ≤ infMag) :
    roundMag (magValue b * d) d = b := by
  unfold roundMag
  rw [roundBits_exact hd]
  omega

end Sys2Proof.Machine
end

