-- ==== Sys2Proof/Laws/Float.lean ====
section
/-! SUPPORT. What a binary32 operation answers, told by the values `units` of its operands: an upper
bound of the exact result that is itself a number bounds the rounded one, and so does a lower bound. -/

namespace Sys2Proof.Machine

/-! ### Sign, magnitude, order -/

theorem fmag_lt (x : F) : fmag x < 2 ^ 31 := Nat.mod_lt _ (by omega)

theorem isNeg_iff (x : F) : isNeg x = true ↔ 2 ^ 31 ≤ x.toNat := by
  simp [isNeg, BitVec.msb_eq_decide]

theorem toNat_eq (x : F) : x.toNat = (if isNeg x then 2 ^ 31 else 0) + fmag x := by
  have h := isNeg_iff x
  have := x.isLt
  unfold fmag
  split <;> rename_i hn <;> simp only [hn, true_iff, false_iff, Bool.false_eq_true] at h <;> omega

theorem toNat_pack {b : Nat} (neg : Bool) (h : b < 2 ^ 31) :
    (pack neg b).toNat = (if neg then 2 ^ 31 else 0) + b := by
  unfold pack
  rw [BitVec.toNat_ofNat]
  apply Nat.mod_eq_of_lt
  split <;> omega

@[simp] theorem fmag_pack {b : Nat} (neg : Bool) (h : b < 2 ^ 31) : fmag (pack neg b) = b := by
  unfold fmag
  rw [toNat_pack neg h]
  split <;> omega

@[simp] theorem isNeg_pack {b : Nat} (neg : Bool) (h : b < 2 ^ 31) : isNeg (pack neg b) = neg := by
  have h1 := isNeg_iff (pack neg b)
  rw [toNat_pack neg h] at h1
  cases neg
  · rw [Bool.eq_false_iff]
    intro hc
    have := h1.1 hc
    simp only [Bool.false_eq_true, if_false] at this
    omega
  · exact h1.2 (by simp)

theorem pack_self (x : F) : pack (isNeg x) (fmag x) = x := by
  apply BitVec.eq_of_toNat_eq
  rw [toNat_pack _ (fmag_lt x), ← toNat_eq]

theorem isFinite_iff (x : F) : isFinite x = true ↔ fmag x < infMag := by simp [isFinite]

theorem isNaN_iff (x : F) : isNaN x = true ↔ infMag < fmag x := by simp [isNaN]

theorem isNaN_of_isFinite {x : F} (h : isFinite x = true) : isNaN x = false := by
  rw [isFinite_iff] at h
  simp [isNaN]
  omega

theorem isInf_of_isFinite {x : F} (h : isFinite x = true) : isInf x = false := by
  rw [isFinite_iff] at h
  simp [isInf]
  omega

theorem fmag_le_infMag {x : F} (h : isNaN x = false) : fmag x ≤ infMag := by
  simpa [isNaN] using h

@[simp] theorem fmag_fneg (x : F) : fmag (fneg x) = fmag x := fmag_pack _ (fmag_lt x)

@[simp] theorem isNeg_fneg (x : F) : isNeg (fneg x) = !isNeg x := isNeg_pack _ (fmag_lt x)

@[simp] theorem isFinite_fneg (x : F) : isFinite (fneg x) = isFinite x := by simp [isFinite]

@[simp] theorem units_fneg (x : F) : units (fneg x) = -units x := by
  unfold units absUnits
  simp only [isNeg_fneg, fmag_fneg]
  cases isNeg x <;> simp

theorem fkey_pack {b : Nat} (neg : Bool) (h : b < 2 ^ 31) :
    fkey (pack neg b) = if neg then -(b : Int) else b := by
  unfold fkey
  rw [isNeg_pack neg h, fmag_pack neg h]

/-- The order key orders numbers by value. -/
theorem fkey_le_iff (x y : F) : fkey x ≤ fkey y ↔ units x ≤ units y := by
  unfold fkey units absUnits
  have h1 := magValue_le_iff (b := fmag x) (c := fmag y)
  have h2 := magValue_le_iff (b := fmag y) (c := fmag x)
  have hx : magValue (fmag x) = 0 ↔ fmag x = 0 :=
    ⟨fun h => by by_contra hc; have := magValue_pos (Nat.pos_of_ne_zero hc); omega,
      fun h => by rw [h]; rfl⟩
  have hy : magValue (fmag y) = 0 ↔ fmag y = 0 :=
    ⟨fun h => by by_contra hc; have := magValue_pos (Nat.pos_of_ne_zero hc); omega,
      fun h => by rw [h]; rfl⟩
  split <;> split <;> omega

theorem fkey_lt_iff (x y : F) : fkey x < fkey y ↔ units x < units y := by
  have := fkey_le_iff y x
  omega

theorem fkey_eq_iff (x y : F) : fkey x = fkey y ↔ units x = units y := by
  have h1 := fkey_le_iff y x
  have h2 := fkey_le_iff x y
  omega

theorem fle_iff {x y : F} (hx : isNaN x = false) (hy : isNaN y = false) :
    fle x y = true ↔ units x ≤ units y := by
  simp [fle, hx, hy, fkey_le_iff]

theorem flt_iff {x y : F} (hx : isNaN x = false) (hy : isNaN y = false) :
    flt x y = true ↔ units x < units y := by
  simp [flt, hx, hy, fkey_lt_iff]

theorem feq_iff {x y : F} (hx : isNaN x = false) (hy : isNaN y = false) :
    feq x y = true ↔ units x = units y := by
  simp [feq, hx, hy, fkey_eq_iff]

theorem fle_isNaN {x y : F} (h : fle x y = true) : isNaN x = false ∧ isNaN y = false := by
  simp only [fle, Bool.and_eq_true, Bool.not_eq_true'] at h
  exact h.1

theorem units_le_of_fle {x y : F} (h : fle x y = true) : units x ≤ units y :=
  (fle_iff (fle_isNaN h).1 (fle_isNaN h).2).1 h

theorem flt_isNaN {x y : F} (h : flt x y = true) : isNaN x = false ∧ isNaN y = false := by
  simp only [flt, Bool.and_eq_true, Bool.not_eq_true'] at h
  exact h.1

theorem fle_refl {x : F} (h : isNaN x = false) : fle x x = true := (fle_iff h h).2 le_rfl

theorem fle_trans {x y z : F} (h1 : fle x y = true) (h2 : fle y z = true) : fle x z = true :=
  (fle_iff (fle_isNaN h1).1 (fle_isNaN h2).2).2
    (le_trans (units_le_of_fle h1) (units_le_of_fle h2))

/-! ### Packing a rounded magnitude -/

/-- A signed count of units of 2^-149 that `d` divides. -/
def signed (neg : Bool) (n : Nat) : Int := if neg then -(n : Int) else n

theorem packRound_lt (n d : Nat) : roundMag n d < 2 ^ 31 :=
  lt_of_le_of_lt (roundMag_le_infMag n d) (by decide)

theorem isNaN_packRound (neg : Bool) (n d : Nat) : isNaN (pack neg (roundMag n d)) = false := by
  have := roundMag_le_infMag n d
  simp [isNaN, fmag_pack neg (packRound_lt n d)]
  exact this

theorem units_eq_signed (x : F) : units x = signed (isNeg x) (absUnits x) := rfl

theorem magValue_eq_zero {b : Nat} (h : magValue b = 0) : b = 0 := by
  by_contra hc
  have := magValue_pos (Nat.pos_of_ne_zero hc)
  omega

theorem roundMag_zero {d : Nat} (hd : 0 < d) : roundMag 0 d = 0 := by
  have : roundMag 0 d ≤ 0 := roundMag_le hd (Nat.zero_le _)
  omega

/-- An exact value of at most that of the number `z` rounds to at most `z`. -/
theorem packRound_le {neg : Bool} {n d : Nat} {z : F} (hd : 0 < d) (hz : isNaN z = false)
    (h : signed neg n ≤ units z * d) : fkey (pack neg (roundMag n d)) ≤ fkey z := by
  rw [fkey_pack neg (packRound_lt n d)]
  have hmag := fmag_le_infMag hz
  unfold signed units absUnits at h
  unfold fkey
  have hpos : (0 : Int) ≤ (magValue (fmag z) : Int) * d := by positivity
  cases neg <;> cases hzn : isNeg z <;>
    simp only [hzn, Bool.false_eq_true, if_true, if_false, Int.neg_mul] at h ⊢
  · have := roundMag_le hd (show n ≤ magValue (fmag z) * d by exact_mod_cast h)
    omega
  · have hn : n = 0 := by omega
    subst hn
    have h0 : magValue (fmag z) * d = 0 := by
      have : (magValue (fmag z) : Int) * d = 0 := by push_cast at h; omega
      exact_mod_cast this
    have h1 := magValue_eq_zero ((Nat.mul_eq_zero.1 h0).resolve_right (by omega))
    rw [roundMag_zero hd, h1]
    simp
  · omega
  · have := le_roundMag hd hmag
      (show magValue (fmag z) * d ≤ n by
        have : (magValue (fmag z) : Int) * d ≤ n := by omega
        exact_mod_cast this)
    omega

/-- An exact value of at least that of the number `z` rounds to at least `z`. -/
theorem le_packRound {neg : Bool} {n d : Nat} {z : F} (hd : 0 < d) (hz : isNaN z = false)
    (h : units z * d ≤ signed neg n) : fkey z ≤ fkey (pack neg (roundMag n d)) := by
  rw [fkey_pack neg (packRound_lt n d)]
  have hmag := fmag_le_infMag hz
  unfold signed units absUnits at h
  unfold fkey
  have hpos : (0 : Int) ≤ (magValue (fmag z) : Int) * d := by positivity
  cases neg <;> cases hzn : isNeg z <;>
    simp only [hzn, Bool.false_eq_true, if_true, if_false, Int.neg_mul] at h ⊢
  · have := le_roundMag hd hmag (show magValue (fmag z) * d ≤ n by exact_mod_cast h)
    omega
  · omega
  · have hn : n = 0 := by omega
    subst hn
    have h0 : magValue (fmag z) * d = 0 := by
      have : (magValue (fmag z) : Int) * d = 0 := by push_cast at h; omega
      exact_mod_cast this
    have h1 := magValue_eq_zero ((Nat.mul_eq_zero.1 h0).resolve_right (by omega))
    rw [roundMag_zero hd, h1]
    simp
  · have := roundMag_le hd
      (show n ≤ magValue (fmag z) * d by
        have : (n : Int) ≤ (magValue (fmag z) : Int) * d := by omega
        exact_mod_cast this)
    omega

/-- Rounding a signed value is monotone. -/
theorem packRound_mono {neg neg' : Bool} {n d n' d' : Nat} (hd : 0 < d) (hd' : 0 < d')
    (h : signed neg n * d' ≤ signed neg' n' * d) :
    fkey (pack neg (roundMag n d)) ≤ fkey (pack neg' (roundMag n' d')) := by
  rw [fkey_pack neg (packRound_lt n d), fkey_pack neg' (packRound_lt n' d')]
  unfold signed at h
  have p1 : (0 : Int) ≤ (n : Int) * d' := by positivity
  have p2 : (0 : Int) ≤ (n' : Int) * d := by positivity
  cases neg <;> cases neg' <;>
    simp only [Bool.false_eq_true, if_true, if_false, Int.neg_mul] at h ⊢
  · have := roundMag_mono hd hd' (show n * d' ≤ n' * d by exact_mod_cast h)
    omega
  · have h1 : n * d' = 0 := by
      have : (n : Int) * d' = 0 := by omega
      exact_mod_cast this
    have h2 : n' * d = 0 := by
      have : (n' : Int) * d = 0 := by omega
      exact_mod_cast this
    have hn : n = 0 := (Nat.mul_eq_zero.1 h1).resolve_right (by omega)
    have hn' : n' = 0 := (Nat.mul_eq_zero.1 h2).resolve_right (by omega)
    rw [hn, hn', roundMag_zero hd, roundMag_zero hd']
    simp
  · omega
  · have := roundMag_mono hd' hd (show n' * d ≤ n * d' by
      have : (n' : Int) * d ≤ (n : Int) * d' := by omega
      exact_mod_cast this)
    omega

/-! ### The operations on finite operands

Each operation packs one rounded signed value; an exact zero keeps a sign of its own. -/

/-- The one form a finite operation's answer has: some sign, and the exact value `v / d` rounded. -/
structure RoundsTo (r : F) (v : Int) (d : Nat) : Prop where
  isNaN : isNaN r = false
  le : ∀ z : F, Machine.isNaN z = false → v ≤ units z * d → units r ≤ units z
  ge : ∀ z : F, Machine.isNaN z = false → units z * d ≤ v → units z ≤ units r

theorem roundsTo_packRound {neg : Bool} {n d : Nat} (hd : 0 < d) :
    RoundsTo (pack neg (roundMag n d)) (signed neg n) d where
  isNaN := isNaN_packRound neg n d
  le _ hz h := (fkey_le_iff _ _).1 (packRound_le hd hz h)
  ge _ hz h := (fkey_le_iff _ _).1 (le_packRound hd hz h)

theorem RoundsTo.fle {r : F} {v : Int} {d : Nat} (h : RoundsTo r v d) {z : F}
    (hz : Machine.isNaN z = false) (hv : v ≤ units z * d) : fle r z = true :=
  (fle_iff h.isNaN hz).2 (h.le z hz hv)

theorem RoundsTo.fge {r : F} {v : Int} {d : Nat} (h : RoundsTo r v d) {z : F}
    (hz : Machine.isNaN z = false) (hv : units z * d ≤ v) : Machine.fle z r = true :=
  (fle_iff hz h.isNaN).2 (h.ge z hz hv)

/-- An exact value that is a number's own is answered exactly. -/
theorem RoundsTo.exact {r : F} {v : Int} {d : Nat} (h : RoundsTo r v d) {z : F}
    (hz : Machine.isNaN z = false) (hv : v = units z * d) : units r = units z :=
  le_antisymm (h.le z hz hv.le) (h.ge z hz hv.ge)

theorem signed_natAbs (v : Int) : signed (decide (v < 0)) v.natAbs = v := by
  unfold signed
  by_cases h : v < 0 <;> simp only [h, decide_true, decide_false, if_true, if_false,
    Bool.false_eq_true] <;> omega

theorem pack_zero_eq (neg : Bool) : pack neg 0 = pack neg (roundMag 0 1) := by
  rw [roundMag_zero (by omega)]

/-- `x + y` of finite operands is the exact sum, rounded. -/
theorem fadd_roundsTo {x y : F} (hx : isFinite x = true) (hy : isFinite y = true) :
    RoundsTo (fadd x y) (units x + units y) 1 := by
  unfold fadd
  simp only [isNaN_of_isFinite hx, isNaN_of_isFinite hy, isInf_of_isFinite hx,
    isInf_of_isFinite hy, Bool.or_self, Bool.false_eq_true, if_false]
  split
  · rename_i h
    rw [h, pack_zero_eq]
    have := roundsTo_packRound (neg := isNeg x && isNeg y) (n := 0) (d := 1) (by omega)
    rwa [show signed (isNeg x && isNeg y) 0 = 0 by unfold signed; split <;> simp] at this
  · have := roundsTo_packRound (neg := decide (units x + units y < 0))
      (n := (units x + units y).natAbs) (d := 1) (by omega)
    rwa [signed_natAbs] at this

/-- `x - y` of finite operands is the exact difference, rounded. -/
theorem fsub_roundsTo {x y : F} (hx : isFinite x = true) (hy : isFinite y = true) :
    RoundsTo (fsub x y) (units x - units y) 1 := by
  have := fadd_roundsTo hx (y := fneg y) (by simpa using hy)
  rwa [units_fneg, ← Int.sub_eq_add_neg] at this

theorem oneUnits_pos : 0 < oneUnits := Nat.two_pow_pos 149

theorem signed_mul (a b : Bool) (m n : Nat) :
    signed (a != b) (m * n) = signed a m * signed b n := by
  unfold signed
  cases a <;> cases b <;> simp

/-- `x × y` of finite operands is the exact product, rounded. -/
theorem fmul_roundsTo {x y : F} (hx : isFinite x = true) (hy : isFinite y = true) :
    RoundsTo (fmul x y) (units x * units y) (oneUnits) := by
  unfold fmul
  simp only [isNaN_of_isFinite hx, isNaN_of_isFinite hy, isInf_of_isFinite hx,
    isInf_of_isFinite hy, Bool.or_self, Bool.false_eq_true, if_false]
  have := roundsTo_packRound (neg := isNeg x != isNeg y) (n := absUnits x * absUnits y)
    (d := oneUnits) oneUnits_pos
  rwa [signed_mul, ← units_eq_signed, ← units_eq_signed] at this

theorem absUnits_pos {y : F} (h : 0 < units y) : 0 < absUnits y ∧ isNeg y = false := by
  unfold units at h
  cases hn : isNeg y <;> simp only [hn, Bool.false_eq_true, if_true, if_false] at h
  · exact ⟨by omega, rfl⟩
  · omega

theorem fdiv_eq {x y : F} (hx : isFinite x = true) (hy : isFinite y = true) (h : 0 < units y) :
    fdiv x y = pack (isNeg x) (roundMag (absUnits x * oneUnits) (absUnits y)) := by
  obtain ⟨hp, hn⟩ := absUnits_pos h
  have hm : fmag y ≠ 0 := by
    intro hc
    unfold absUnits at hp
    rw [hc] at hp
    exact absurd hp (by decide)
  unfold fdiv
  simp [isNaN_of_isFinite hx, isNaN_of_isFinite hy, isInf_of_isFinite hx, isInf_of_isFinite hy, hm,
    hn]

/-- `x / y` of a finite dividend by a finite positive divisor is the exact quotient, rounded. -/
theorem fdiv_roundsTo {x y : F} (hx : isFinite x = true) (hy : isFinite y = true)
    (h : 0 < units y) : RoundsTo (fdiv x y) (units x * oneUnits) (absUnits y) := by
  rw [fdiv_eq hx hy h]
  have := roundsTo_packRound (neg := isNeg x) (n := absUnits x * oneUnits) (d := absUnits y)
    (absUnits_pos h).1
  rwa [show signed (isNeg x) (absUnits x * oneUnits) = units x * oneUnits by
    unfold signed units; split <;> push_cast <;> ring] at this

/-- Division by one positive divisor is monotone in the dividend. -/
theorem fdiv_mono {x x' y : F} (hx : isFinite x = true) (hx' : isFinite x' = true)
    (hy : isFinite y = true) (h : 0 < units y) (hle : units x ≤ units x') :
    fle (fdiv x y) (fdiv x' y) = true := by
  rw [fle_iff (fdiv_roundsTo hx hy h).isNaN (fdiv_roundsTo hx' hy h).isNaN, ← fkey_le_iff,
    fdiv_eq hx hy h, fdiv_eq hx' hy h]
  obtain ⟨hp, -⟩ := absUnits_pos h
  apply packRound_mono hp hp
  have e : ∀ z : F, signed (isNeg z) (absUnits z * oneUnits) = units z * oneUnits := by
    intro z
    unfold signed units
    split <;> push_cast <;> ring
  rw [e, e]
  exact Int.mul_le_mul_of_nonneg_right
    (Int.mul_le_mul_of_nonneg_right hle (Int.natCast_nonneg _)) (Int.natCast_nonneg _)

/-- The rounded sum is monotone. -/
theorem fadd_mono {x y x' y' : F} (hx : isFinite x = true) (hy : isFinite y = true)
    (hx' : isFinite x' = true) (hy' : isFinite y' = true)
    (hle : units x + units y ≤ units x' + units y') :
    fle (fadd x y) (fadd x' y') = true := by
  have key : ∀ {x y : F}, isFinite x = true → isFinite y = true →
      ∃ neg n, fadd x y = pack neg (roundMag n 1) ∧ signed neg n = units x + units y := by
    intro x y hx hy
    unfold fadd
    simp only [isNaN_of_isFinite hx, isNaN_of_isFinite hy, isInf_of_isFinite hx,
      isInf_of_isFinite hy, Bool.or_self, Bool.false_eq_true, if_false]
    split
    · rename_i h
      exact ⟨_, 0, pack_zero_eq _, by rw [h]; unfold signed; split <;> simp⟩
    · exact ⟨_, _, rfl, signed_natAbs _⟩
  rw [fle_iff (fadd_roundsTo hx hy).isNaN (fadd_roundsTo hx' hy').isNaN, ← fkey_le_iff]
  obtain ⟨neg, n, e, hv⟩ := key hx hy
  obtain ⟨neg', n', e', hv'⟩ := key hx' hy'
  rw [e, e']
  apply packRound_mono (by omega) (by omega)
  rw [hv, hv']
  push_cast
  omega

/-! ### Natural numbers -/

/-- Any significand below 2^24 at any binade is the value of some magnitude bits. -/
theorem exists_mag (t : Nat) : ∀ g, g < 2 ^ 24 →
    ∃ b, magValue b = g * 2 ^ t ∧ b ≤ (t + 2) * 8388608 := by
  induction t with
  | zero =>
    intro g hg
    refine ⟨g, ?_, by omega⟩
    unfold magValue
    split
    · simp
    · rw [show g / 2 ^ 23 = 1 by omega]
      omega
  | succ t ih =>
    intro g hg
    rcases Nat.lt_or_ge g (2 ^ 23) with h | h
    · obtain ⟨b, hb, hle⟩ := ih (g * 2) (by omega)
      exact ⟨b, by rw [hb, Nat.pow_succ]; ring,
        le_trans hle (Nat.mul_le_mul_right 8388608 (Nat.le_succ (t + 2)))⟩
    · refine ⟨(t + 2) * 2 ^ 23 + (g - 2 ^ 23), ?_, by omega⟩
      unfold magValue
      rw [if_neg (by omega), show ((t + 2) * 2 ^ 23 + (g - 2 ^ 23)) / 2 ^ 23 = t + 2 by omega,
        show ((t + 2) * 2 ^ 23 + (g - 2 ^ 23)) % 2 ^ 23 = g - 2 ^ 23 by omega]
      rw [show 2 ^ 23 + (g - 2 ^ 23) = g by omega, show t + 2 - 1 = t + 1 by omega]

/-- `F(n)` is exact below 2^24 (R12). -/
theorem fofNat_exact {n : Nat} (h : n < 2 ^ 24) :
    isFinite (fofNat n) = true ∧ isNeg (fofNat n) = false ∧ absUnits (fofNat n) = n * oneUnits := by
  obtain ⟨b, hb, hle⟩ := exists_mag 149 n h
  rw [show (2 : Nat) ^ 149 = oneUnits from rfl] at hb
  have hlt : b < infMag := lt_of_le_of_lt hle (by decide)
  have hr : fofNat n = pack false b := by
    unfold fofNat
    rw [← hb]
    have := roundMag_exact (d := 1) (b := b) (by omega) hlt.le
    rw [Nat.mul_one] at this
    rw [this]
  have hb31 : b < 2 ^ 31 := lt_trans hlt (by decide)
  refine ⟨?_, ?_, ?_⟩
  · rw [hr, isFinite_iff, fmag_pack _ hb31]
    exact hlt
  · rw [hr, isNeg_pack _ hb31]
  · unfold absUnits
    rw [hr, fmag_pack _ hb31, hb]

theorem units_fofNat {n : Nat} (h : n < 2 ^ 24) : units (fofNat n) = (n : Int) * oneUnits := by
  obtain ⟨-, h2, h3⟩ := fofNat_exact h
  unfold units
  rw [h2, h3]
  push_cast
  simp

/-! ### Constants and bounds -/

theorem units_fZero : units fZero = 0 := by decide

theorem units_fOne : units fOne = oneUnits := by decide +kernel

theorem isFinite_fZero : isFinite fZero = true := by decide

theorem isFinite_fOne : isFinite fOne = true := by decide

/-- A number between two finite ones is finite. -/
theorem isFinite_of_between {x lo hi : F} (hlo : isFinite lo = true) (hhi : isFinite hi = true)
    (h1 : units lo ≤ units x) (h2 : units x ≤ units hi) : isFinite x = true := by
  rw [isFinite_iff] at *
  rw [← fkey_le_iff] at h1 h2
  unfold fkey at *
  cases hx : isNeg x <;> simp only [hx, Bool.false_eq_true, if_true, if_false] at h1 h2
  · split at h2 <;> omega
  · split at h1 <;> omega

/-- `x / y` lies in [0,1] and is finite when 0 <= x <= y, y > 0. -/
theorem fdiv_unit {x y : F} (hx : isFinite x = true) (hy : isFinite y = true) (h0 : 0 ≤ units x)
    (hy0 : 0 < units y) (hle : units x ≤ units y) :
    isFinite (fdiv x y) = true ∧ 0 ≤ units (fdiv x y) ∧ units (fdiv x y) ≤ oneUnits := by
  have r := fdiv_roundsTo hx hy hy0
  have ay : (absUnits y : Int) = units y := by
    rw [units_eq_signed, (absUnits_pos hy0).2]
    simp [signed]
  have lo := r.ge fZero (isNaN_of_isFinite isFinite_fZero)
    (by rw [units_fZero, Int.zero_mul]; exact Int.mul_nonneg h0 (by positivity))
  have hi := r.le fOne (isNaN_of_isFinite isFinite_fOne)
    (by rw [units_fOne, ay, Int.mul_comm]
        exact Int.mul_le_mul_of_nonneg_left hle (by positivity))
  refine ⟨isFinite_of_between isFinite_fZero isFinite_fOne lo hi, ?_, ?_⟩
  · rwa [units_fZero] at lo
  · rwa [units_fOne] at hi

/-! ### Clamping -/

/-- `clamp` answers a NaN for a NaN and a value of the range for any other argument (R14, U3). -/
theorem clamp_cases {x lo hi : F} (h : fle lo hi = true) :
    isNaN (clamp x lo hi) = true ∨
      (fle lo (clamp x lo hi) = true ∧ fle (clamp x lo hi) hi = true) := by
  obtain ⟨hlo, hhi⟩ := fle_isNaN h
  unfold clamp fgt
  split
  · exact .inr ⟨fle_refl hlo, h⟩
  · split
    · exact .inr ⟨h, fle_refl hhi⟩
    · cases hx : isNaN x
      · rename_i h1 h2
        rw [flt_iff hx hlo] at h1
        rw [flt_iff hhi hx] at h2
        exact .inr ⟨(fle_iff hlo hx).2 (by omega), (fle_iff hx hhi).2 (by omega)⟩
      · exact .inl rfl

/-- `clamp` of a number is a number of the range. -/
theorem clamp_inRange {x lo hi : F} (h : fle lo hi = true) (hx : isNaN x = false) :
    fle lo (clamp x lo hi) = true ∧ fle (clamp x lo hi) hi = true := by
  obtain ⟨hlo, hhi⟩ := fle_isNaN h
  refine (clamp_cases (x := x) h).resolve_left ?_
  unfold clamp
  split
  · simp [hlo]
  · split
    · simp [hhi]
    · simp [hx]

/-- `clamp` leaves a value of the range alone. -/
theorem clamp_self {x lo hi : F} (h1 : fle lo x = true) (h2 : fle x hi = true) :
    clamp x lo hi = x := by
  obtain ⟨hlo, hx⟩ := fle_isNaN h1
  obtain ⟨-, hhi⟩ := fle_isNaN h2
  have u1 := units_le_of_fle h1
  have u2 := units_le_of_fle h2
  unfold clamp fgt
  rw [if_neg (by rw [flt_iff hx hlo]; omega), if_neg (by rw [flt_iff hhi hx]; omega)]

end Sys2Proof.Machine
end

