-- ==== Sys2Proof/Laws/State.lean ====
section
/-! SUPPORT. Per update of the state: the value of every field it writes, and, as one lemma that `simp`
reads field by field, all the fields it leaves alone. -/

namespace Sys2Proof.Machine

variable {α : Type}

@[simp] theorem perChan_get_set (v : PerChan α) (ch ch' : Chan) (x : α) :
    (v.set ch x).get ch' = if ch' = ch then x else v.get ch' := by
  cases ch <;> cases ch' <;> rfl

@[simp] theorem perCv_get_set (v : PerCv α) (ch ch' : CvChan) (x : α) :
    (v.set ch x).get ch' = if ch' = ch then x else v.get ch' := by
  cases ch <;> cases ch' <;> rfl

@[simp] theorem perSlot_get_ofFn (f : Slot → α) (j : Slot) : (PerSlot.ofFn f).get j = f j := by
  cases j <;> rfl

/-- `COMMIT` writes the counters and `prim` only (R121). -/
@[simp] theorem commit_frame (c : Params) (s : State) :
    (commit c s).potS = s.potS ∧ (commit c s).cvRaw = s.cvRaw ∧ (commit c s).cvS = s.cvS ∧
    (commit c s).cvMode = s.cvMode ∧ (commit c s).ctl = s.ctl ∧ (commit c s).gate = s.gate ∧
    (commit c s).hasEdge = s.hasEdge ∧ (commit c s).lastTapTime = s.lastTapTime ∧ (commit c
    s).armed = s.armed ∧ (commit c s).est = s.est ∧ (commit c s).level = s.level ∧ (commit c
    s).bank = s.bank ∧ (commit c s).index = s.index ∧ (commit c s).preview = s.preview ∧
    (commit c s).btnRawPrev = s.btnRawPrev ∧ (commit c s).btnTChange = s.btnTChange ∧
    (commit c s).btnStable = s.btnStable ∧ (commit c s).btnTPress = s.btnTPress ∧ (commit c
    s).btnLongDone = s.btnLongDone ∧ (commit c s).tInteract = s.tInteract ∧ (commit c
    s).aBank = s.aBank ∧ (commit c s).aIndex = s.aIndex ∧ (commit c s).aCtl = s.aCtl ∧
    (commit c s).aArmed = s.aArmed ∧ (commit c s).aEst = s.aEst ∧ (commit c s).dl = s.dl ∧
    (commit c s).hpX1 = s.hpX1 ∧ (commit c s).hpY1 = s.hpY1 ∧ (commit c s).lpZ = s.lpZ ∧
    (commit c s).portT = s.portT ∧ (commit c s).portA = s.portA ∧ (commit c s).portB =
    s.portB ∧ (commit c s).portL = s.portL ∧ (commit c s).outL = s.outL ∧ (commit c s).outR
    = s.outR ∧ (commit c s).pchg = s.pchg ∧ (commit c s).pubData = s.pubData ∧ (commit c
    s).controlQ = s.controlQ ∧ (commit c s).audioQ = s.audioQ ∧ (commit c s).hostQ = s.hostQ
    ∧ (commit c s).turn = s.turn :=
  ⟨rfl, rfl, rfl, rfl, rfl, rfl, rfl, rfl, rfl, rfl, rfl, rfl, rfl, rfl, rfl, rfl, rfl, rfl,
    rfl, rfl, rfl, rfl, rfl, rfl, rfl, rfl, rfl, rfl, rfl, rfl, rfl, rfl, rfl, rfl, rfl,
    rfl, rfl, rfl, rfl, rfl, rfl⟩

@[simp] theorem commit_fadeRemaining (c : Params) (s : State) :
    (commit c s).fadeRemaining = c.fadeLen := rfl

@[simp] theorem commit_warmupRemaining (c : Params) (s : State) :
    (commit c s).warmupRemaining = 
      if c.needsWarmup (patchNo s.bank s.index) then c.warmupLen else 0 := rfl

@[simp] theorem commit_prim (c : Params) (s : State) :
    (commit c s).prim = c.dspReset := rfl

/-- `POTSM` writes `pot_s` only (R101). -/
@[simp] theorem potSmooth_frame (ch : Chan) (s : State) :
    (potSmooth ch s).cvRaw = s.cvRaw ∧ (potSmooth ch s).cvS = s.cvS ∧ (potSmooth ch
    s).cvMode = s.cvMode ∧ (potSmooth ch s).ctl = s.ctl ∧ (potSmooth ch s).gate = s.gate ∧
    (potSmooth ch s).hasEdge = s.hasEdge ∧ (potSmooth ch s).lastTapTime = s.lastTapTime ∧
    (potSmooth ch s).armed = s.armed ∧ (potSmooth ch s).est = s.est ∧ (potSmooth ch s).level
    = s.level ∧ (potSmooth ch s).bank = s.bank ∧ (potSmooth ch s).index = s.index ∧
    (potSmooth ch s).preview = s.preview ∧ (potSmooth ch s).btnRawPrev = s.btnRawPrev ∧
    (potSmooth ch s).btnTChange = s.btnTChange ∧ (potSmooth ch s).btnStable = s.btnStable ∧
    (potSmooth ch s).btnTPress = s.btnTPress ∧ (potSmooth ch s).btnLongDone = s.btnLongDone
    ∧ (potSmooth ch s).tInteract = s.tInteract ∧ (potSmooth ch s).fadeRemaining =
    s.fadeRemaining ∧ (potSmooth ch s).warmupRemaining = s.warmupRemaining ∧ (potSmooth ch
    s).aBank = s.aBank ∧ (potSmooth ch s).aIndex = s.aIndex ∧ (potSmooth ch s).aCtl = s.aCtl
    ∧ (potSmooth ch s).aArmed = s.aArmed ∧ (potSmooth ch s).aEst = s.aEst ∧ (potSmooth ch
    s).dl = s.dl ∧ (potSmooth ch s).prim = s.prim ∧ (potSmooth ch s).hpX1 = s.hpX1 ∧
    (potSmooth ch s).hpY1 = s.hpY1 ∧ (potSmooth ch s).lpZ = s.lpZ ∧ (potSmooth ch s).portT =
    s.portT ∧ (potSmooth ch s).portA = s.portA ∧ (potSmooth ch s).portB = s.portB ∧
    (potSmooth ch s).portL = s.portL ∧ (potSmooth ch s).outL = s.outL ∧ (potSmooth ch
    s).outR = s.outR ∧ (potSmooth ch s).pchg = s.pchg ∧ (potSmooth ch s).pubData = s.pubData
    ∧ (potSmooth ch s).controlQ = s.controlQ ∧ (potSmooth ch s).audioQ = s.audioQ ∧
    (potSmooth ch s).hostQ = s.hostQ ∧ (potSmooth ch s).turn = s.turn :=
  ⟨rfl, rfl, rfl, rfl, rfl, rfl, rfl, rfl, rfl, rfl, rfl, rfl, rfl, rfl, rfl, rfl, rfl, rfl,
    rfl, rfl, rfl, rfl, rfl, rfl, rfl, rfl, rfl, rfl, rfl, rfl, rfl, rfl, rfl, rfl, rfl,
    rfl, rfl, rfl, rfl, rfl, rfl, rfl, rfl⟩

@[simp] theorem potSmooth_potS (ch : Chan) (s : State) :
    (potSmooth ch s).potS = 
      s.potS.set ch (onePole (s.potS.get ch) potAlpha (clamp s.portA fZero fOne)) := rfl

/-- `CVSM` writes `cv_raw` and `cv_s` only (R104). -/
@[simp] theorem cvSmooth_frame (c : Params) (ch : CvChan) (s : State) :
    (cvSmooth c ch s).potS = s.potS ∧ (cvSmooth c ch s).cvMode = s.cvMode ∧ (cvSmooth c ch
    s).ctl = s.ctl ∧ (cvSmooth c ch s).gate = s.gate ∧ (cvSmooth c ch s).hasEdge = s.hasEdge
    ∧ (cvSmooth c ch s).lastTapTime = s.lastTapTime ∧ (cvSmooth c ch s).armed = s.armed ∧
    (cvSmooth c ch s).est = s.est ∧ (cvSmooth c ch s).level = s.level ∧ (cvSmooth c ch
    s).bank = s.bank ∧ (cvSmooth c ch s).index = s.index ∧ (cvSmooth c ch s).preview =
    s.preview ∧ (cvSmooth c ch s).btnRawPrev = s.btnRawPrev ∧ (cvSmooth c ch s).btnTChange =
    s.btnTChange ∧ (cvSmooth c ch s).btnStable = s.btnStable ∧ (cvSmooth c ch s).btnTPress =
    s.btnTPress ∧ (cvSmooth c ch s).btnLongDone = s.btnLongDone ∧ (cvSmooth c ch
    s).tInteract = s.tInteract ∧ (cvSmooth c ch s).fadeRemaining = s.fadeRemaining ∧
    (cvSmooth c ch s).warmupRemaining = s.warmupRemaining ∧ (cvSmooth c ch s).aBank =
    s.aBank ∧ (cvSmooth c ch s).aIndex = s.aIndex ∧ (cvSmooth c ch s).aCtl = s.aCtl ∧
    (cvSmooth c ch s).aArmed = s.aArmed ∧ (cvSmooth c ch s).aEst = s.aEst ∧ (cvSmooth c ch
    s).dl = s.dl ∧ (cvSmooth c ch s).prim = s.prim ∧ (cvSmooth c ch s).hpX1 = s.hpX1 ∧
    (cvSmooth c ch s).hpY1 = s.hpY1 ∧ (cvSmooth c ch s).lpZ = s.lpZ ∧ (cvSmooth c ch
    s).portT = s.portT ∧ (cvSmooth c ch s).portA = s.portA ∧ (cvSmooth c ch s).portB =
    s.portB ∧ (cvSmooth c ch s).portL = s.portL ∧ (cvSmooth c ch s).outL = s.outL ∧
    (cvSmooth c ch s).outR = s.outR ∧ (cvSmooth c ch s).pchg = s.pchg ∧ (cvSmooth c ch
    s).pubData = s.pubData ∧ (cvSmooth c ch s).controlQ = s.controlQ ∧ (cvSmooth c ch
    s).audioQ = s.audioQ ∧ (cvSmooth c ch s).hostQ = s.hostQ ∧ (cvSmooth c ch s).turn =
    s.turn :=
  ⟨rfl, rfl, rfl, rfl, rfl, rfl, rfl, rfl, rfl, rfl, rfl, rfl, rfl, rfl, rfl, rfl, rfl, rfl,
    rfl, rfl, rfl, rfl, rfl, rfl, rfl, rfl, rfl, rfl, rfl, rfl, rfl, rfl, rfl, rfl, rfl,
    rfl, rfl, rfl, rfl, rfl, rfl, rfl⟩

@[simp] theorem cvSmooth_cvRaw (c : Params) (ch : CvChan) (s : State) :
    (cvSmooth c ch s).cvRaw = s.cvRaw.set ch s.portA := rfl

@[simp] theorem cvSmooth_cvS (c : Params) (ch : CvChan) (s : State) :
    (cvSmooth c ch s).cvS = 
      s.cvS.set ch (onePole (s.cvS.get ch) (cvAlpha c ch s.portA (s.cvS.get ch)) s.portA) := rfl

/-- `TKO 0` writes `ctl` only (R108). -/
@[simp] theorem takeMix_frame (s : State) :
    (takeMix s).potS = s.potS ∧ (takeMix s).cvRaw = s.cvRaw ∧ (takeMix s).cvS = s.cvS ∧
    (takeMix s).cvMode = s.cvMode ∧ (takeMix s).gate = s.gate ∧ (takeMix s).hasEdge =
    s.hasEdge ∧ (takeMix s).lastTapTime = s.lastTapTime ∧ (takeMix s).armed = s.armed ∧
    (takeMix s).est = s.est ∧ (takeMix s).level = s.level ∧ (takeMix s).bank = s.bank ∧
    (takeMix s).index = s.index ∧ (takeMix s).preview = s.preview ∧ (takeMix s).btnRawPrev =
    s.btnRawPrev ∧ (takeMix s).btnTChange = s.btnTChange ∧ (takeMix s).btnStable =
    s.btnStable ∧ (takeMix s).btnTPress = s.btnTPress ∧ (takeMix s).btnLongDone =
    s.btnLongDone ∧ (takeMix s).tInteract = s.tInteract ∧ (takeMix s).fadeRemaining =
    s.fadeRemaining ∧ (takeMix s).warmupRemaining = s.warmupRemaining ∧ (takeMix s).aBank =
    s.aBank ∧ (takeMix s).aIndex = s.aIndex ∧ (takeMix s).aCtl = s.aCtl ∧ (takeMix s).aArmed
    = s.aArmed ∧ (takeMix s).aEst = s.aEst ∧ (takeMix s).dl = s.dl ∧ (takeMix s).prim =
    s.prim ∧ (takeMix s).hpX1 = s.hpX1 ∧ (takeMix s).hpY1 = s.hpY1 ∧ (takeMix s).lpZ = s.lpZ
    ∧ (takeMix s).portT = s.portT ∧ (takeMix s).portA = s.portA ∧ (takeMix s).portB =
    s.portB ∧ (takeMix s).portL = s.portL ∧ (takeMix s).outL = s.outL ∧ (takeMix s).outR =
    s.outR ∧ (takeMix s).pchg = s.pchg ∧ (takeMix s).pubData = s.pubData ∧ (takeMix
    s).controlQ = s.controlQ ∧ (takeMix s).audioQ = s.audioQ ∧ (takeMix s).hostQ = s.hostQ ∧
    (takeMix s).turn = s.turn :=
  ⟨rfl, rfl, rfl, rfl, rfl, rfl, rfl, rfl, rfl, rfl, rfl, rfl, rfl, rfl, rfl, rfl, rfl, rfl,
    rfl, rfl, rfl, rfl, rfl, rfl, rfl, rfl, rfl, rfl, rfl, rfl, rfl, rfl, rfl, rfl, rfl,
    rfl, rfl, rfl, rfl, rfl, rfl, rfl, rfl⟩

@[simp] theorem takeMix_ctl (s : State) :
    (takeMix s).ctl = s.ctl.set .mix s.potS.mix := rfl

/-- `TKO ch` writes `cv_mode` and `ctl` only (R108). -/
@[simp] theorem takeCv_frame (ch : CvChan) (s : State) :
    (takeCv ch s).potS = s.potS ∧ (takeCv ch s).cvRaw = s.cvRaw ∧ (takeCv ch s).cvS = s.cvS
    ∧ (takeCv ch s).gate = s.gate ∧ (takeCv ch s).hasEdge = s.hasEdge ∧ (takeCv ch
    s).lastTapTime = s.lastTapTime ∧ (takeCv ch s).armed = s.armed ∧ (takeCv ch s).est =
    s.est ∧ (takeCv ch s).level = s.level ∧ (takeCv ch s).bank = s.bank ∧ (takeCv ch
    s).index = s.index ∧ (takeCv ch s).preview = s.preview ∧ (takeCv ch s).btnRawPrev =
    s.btnRawPrev ∧ (takeCv ch s).btnTChange = s.btnTChange ∧ (takeCv ch s).btnStable =
    s.btnStable ∧ (takeCv ch s).btnTPress = s.btnTPress ∧ (takeCv ch s).btnLongDone =
    s.btnLongDone ∧ (takeCv ch s).tInteract = s.tInteract ∧ (takeCv ch s).fadeRemaining =
    s.fadeRemaining ∧ (takeCv ch s).warmupRemaining = s.warmupRemaining ∧ (takeCv ch
    s).aBank = s.aBank ∧ (takeCv ch s).aIndex = s.aIndex ∧ (takeCv ch s).aCtl = s.aCtl ∧
    (takeCv ch s).aArmed = s.aArmed ∧ (takeCv ch s).aEst = s.aEst ∧ (takeCv ch s).dl = s.dl
    ∧ (takeCv ch s).prim = s.prim ∧ (takeCv ch s).hpX1 = s.hpX1 ∧ (takeCv ch s).hpY1 =
    s.hpY1 ∧ (takeCv ch s).lpZ = s.lpZ ∧ (takeCv ch s).portT = s.portT ∧ (takeCv ch s).portA
    = s.portA ∧ (takeCv ch s).portB = s.portB ∧ (takeCv ch s).portL = s.portL ∧ (takeCv ch
    s).outL = s.outL ∧ (takeCv ch s).outR = s.outR ∧ (takeCv ch s).pchg = s.pchg ∧ (takeCv
    ch s).pubData = s.pubData ∧ (takeCv ch s).controlQ = s.controlQ ∧ (takeCv ch s).audioQ =
    s.audioQ ∧ (takeCv ch s).hostQ = s.hostQ ∧ (takeCv ch s).turn = s.turn :=
  ⟨rfl, rfl, rfl, rfl, rfl, rfl, rfl, rfl, rfl, rfl, rfl, rfl, rfl, rfl, rfl, rfl, rfl, rfl,
    rfl, rfl, rfl, rfl, rfl, rfl, rfl, rfl, rfl, rfl, rfl, rfl, rfl, rfl, rfl, rfl, rfl,
    rfl, rfl, rfl, rfl, rfl, rfl, rfl⟩

@[simp] theorem takeCv_cvMode (ch : CvChan) (s : State) :
    (takeCv ch s).cvMode = 
      s.cvMode.set ch (takeover ch (s.cvMode.get ch) (s.potS.get ch.toChan)) := rfl

@[simp] theorem takeCv_ctl (ch : CvChan) (s : State) :
    (takeCv ch s).ctl = 
      s.ctl.set ch.toChan
        (if takeover ch (s.cvMode.get ch) (s.potS.get ch.toChan) then cvmap (s.cvS.get ch)
          else s.potS.get ch.toChan) := rfl

/-- `RST` writes registers only: ports, results and schedule stay (R270, R271). -/
@[simp] theorem resetRegisters_frame (c : Params) (s : State) :
    (resetRegisters c s).portT = s.portT ∧ (resetRegisters c s).portA = s.portA ∧
    (resetRegisters c s).portB = s.portB ∧ (resetRegisters c s).portL = s.portL ∧
    (resetRegisters c s).outL = s.outL ∧ (resetRegisters c s).outR = s.outR ∧
    (resetRegisters c s).pchg = s.pchg ∧ (resetRegisters c s).pubData = s.pubData ∧
    (resetRegisters c s).controlQ = s.controlQ ∧ (resetRegisters c s).audioQ = s.audioQ ∧
    (resetRegisters c s).hostQ = s.hostQ ∧ (resetRegisters c s).turn = s.turn :=
  ⟨rfl, rfl, rfl, rfl, rfl, rfl, rfl, rfl, rfl, rfl, rfl, rfl⟩

/-- `BLK` writes the snapshot only (R186). -/
@[simp] theorem latchBlock_frame (s : State) :
    (latchBlock s).potS = s.potS ∧ (latchBlock s).cvRaw = s.cvRaw ∧ (latchBlock s).cvS =
    s.cvS ∧ (latchBlock s).cvMode = s.cvMode ∧ (latchBlock s).ctl = s.ctl ∧ (latchBlock
    s).gate = s.gate ∧ (latchBlock s).hasEdge = s.hasEdge ∧ (latchBlock s).lastTapTime =
    s.lastTapTime ∧ (latchBlock s).armed = s.armed ∧ (latchBlock s).est = s.est ∧
    (latchBlock s).level = s.level ∧ (latchBlock s).bank = s.bank ∧ (latchBlock s).index =
    s.index ∧ (latchBlock s).preview = s.preview ∧ (latchBlock s).btnRawPrev = s.btnRawPrev
    ∧ (latchBlock s).btnTChange = s.btnTChange ∧ (latchBlock s).btnStable = s.btnStable ∧
    (latchBlock s).btnTPress = s.btnTPress ∧ (latchBlock s).btnLongDone = s.btnLongDone ∧
    (latchBlock s).tInteract = s.tInteract ∧ (latchBlock s).fadeRemaining = s.fadeRemaining
    ∧ (latchBlock s).warmupRemaining = s.warmupRemaining ∧ (latchBlock s).dl = s.dl ∧
    (latchBlock s).prim = s.prim ∧ (latchBlock s).hpX1 = s.hpX1 ∧ (latchBlock s).hpY1 =
    s.hpY1 ∧ (latchBlock s).lpZ = s.lpZ ∧ (latchBlock s).portT = s.portT ∧ (latchBlock
    s).portA = s.portA ∧ (latchBlock s).portB = s.portB ∧ (latchBlock s).portL = s.portL ∧
    (latchBlock s).outL = s.outL ∧ (latchBlock s).outR = s.outR ∧ (latchBlock s).pchg =
    s.pchg ∧ (latchBlock s).pubData = s.pubData ∧ (latchBlock s).controlQ = s.controlQ ∧
    (latchBlock s).audioQ = s.audioQ ∧ (latchBlock s).hostQ = s.hostQ ∧ (latchBlock s).turn
    = s.turn :=
  ⟨rfl, rfl, rfl, rfl, rfl, rfl, rfl, rfl, rfl, rfl, rfl, rfl, rfl, rfl, rfl, rfl, rfl, rfl,
    rfl, rfl, rfl, rfl, rfl, rfl, rfl, rfl, rfl, rfl, rfl, rfl, rfl, rfl, rfl, rfl, rfl,
    rfl, rfl, rfl, rfl⟩

@[simp] theorem latchBlock_aBank (s : State) :
    (latchBlock s).aBank = s.bank := rfl

@[simp] theorem latchBlock_aIndex (s : State) :
    (latchBlock s).aIndex = s.index := rfl

@[simp] theorem latchBlock_aCtl (s : State) :
    (latchBlock s).aCtl = s.ctl := rfl

@[simp] theorem latchBlock_aArmed (s : State) :
    (latchBlock s).aArmed = s.armed := rfl

@[simp] theorem latchBlock_aEst (s : State) :
    (latchBlock s).aEst = s.est := rfl

/-- The countdown writes the counters only (R126). -/
@[simp] theorem countdown_frame (s : State) :
    (countdown s).potS = s.potS ∧ (countdown s).cvRaw = s.cvRaw ∧ (countdown s).cvS = s.cvS
    ∧ (countdown s).cvMode = s.cvMode ∧ (countdown s).ctl = s.ctl ∧ (countdown s).gate =
    s.gate ∧ (countdown s).hasEdge = s.hasEdge ∧ (countdown s).lastTapTime = s.lastTapTime ∧
    (countdown s).armed = s.armed ∧ (countdown s).est = s.est ∧ (countdown s).level =
    s.level ∧ (countdown s).bank = s.bank ∧ (countdown s).index = s.index ∧ (countdown
    s).preview = s.preview ∧ (countdown s).btnRawPrev = s.btnRawPrev ∧ (countdown
    s).btnTChange = s.btnTChange ∧ (countdown s).btnStable = s.btnStable ∧ (countdown
    s).btnTPress = s.btnTPress ∧ (countdown s).btnLongDone = s.btnLongDone ∧ (countdown
    s).tInteract = s.tInteract ∧ (countdown s).aBank = s.aBank ∧ (countdown s).aIndex =
    s.aIndex ∧ (countdown s).aCtl = s.aCtl ∧ (countdown s).aArmed = s.aArmed ∧ (countdown
    s).aEst = s.aEst ∧ (countdown s).dl = s.dl ∧ (countdown s).prim = s.prim ∧ (countdown
    s).hpX1 = s.hpX1 ∧ (countdown s).hpY1 = s.hpY1 ∧ (countdown s).lpZ = s.lpZ ∧ (countdown
    s).portT = s.portT ∧ (countdown s).portA = s.portA ∧ (countdown s).portB = s.portB ∧
    (countdown s).portL = s.portL ∧ (countdown s).outL = s.outL ∧ (countdown s).outR =
    s.outR ∧ (countdown s).pchg = s.pchg ∧ (countdown s).pubData = s.pubData ∧ (countdown
    s).controlQ = s.controlQ ∧ (countdown s).audioQ = s.audioQ ∧ (countdown s).hostQ =
    s.hostQ ∧ (countdown s).turn = s.turn :=
  ⟨rfl, rfl, rfl, rfl, rfl, rfl, rfl, rfl, rfl, rfl, rfl, rfl, rfl, rfl, rfl, rfl, rfl, rfl,
    rfl, rfl, rfl, rfl, rfl, rfl, rfl, rfl, rfl, rfl, rfl, rfl, rfl, rfl, rfl, rfl, rfl,
    rfl, rfl, rfl, rfl, rfl, rfl, rfl⟩

@[simp] theorem countdown_fadeRemaining (s : State) :
    (countdown s).fadeRemaining = s.fadeRemaining - 1 := rfl

@[simp] theorem countdown_warmupRemaining (s : State) :
    (countdown s).warmupRemaining = s.warmupRemaining - 1 := rfl

/-- The conditioner writes its filter memory and the output ports only (R230). -/
@[simp] theorem condition_frame (c : Params) (yL yR : F) (s : State) :
    (condition c yL yR s).potS = s.potS ∧ (condition c yL yR s).cvRaw = s.cvRaw ∧ (condition
    c yL yR s).cvS = s.cvS ∧ (condition c yL yR s).cvMode = s.cvMode ∧ (condition c yL yR
    s).ctl = s.ctl ∧ (condition c yL yR s).gate = s.gate ∧ (condition c yL yR s).hasEdge =
    s.hasEdge ∧ (condition c yL yR s).lastTapTime = s.lastTapTime ∧ (condition c yL yR
    s).armed = s.armed ∧ (condition c yL yR s).est = s.est ∧ (condition c yL yR s).level =
    s.level ∧ (condition c yL yR s).bank = s.bank ∧ (condition c yL yR s).index = s.index ∧
    (condition c yL yR s).preview = s.preview ∧ (condition c yL yR s).btnRawPrev =
    s.btnRawPrev ∧ (condition c yL yR s).btnTChange = s.btnTChange ∧ (condition c yL yR
    s).btnStable = s.btnStable ∧ (condition c yL yR s).btnTPress = s.btnTPress ∧ (condition
    c yL yR s).btnLongDone = s.btnLongDone ∧ (condition c yL yR s).tInteract = s.tInteract ∧
    (condition c yL yR s).fadeRemaining = s.fadeRemaining ∧ (condition c yL yR
    s).warmupRemaining = s.warmupRemaining ∧ (condition c yL yR s).aBank = s.aBank ∧
    (condition c yL yR s).aIndex = s.aIndex ∧ (condition c yL yR s).aCtl = s.aCtl ∧
    (condition c yL yR s).aArmed = s.aArmed ∧ (condition c yL yR s).aEst = s.aEst ∧
    (condition c yL yR s).dl = s.dl ∧ (condition c yL yR s).prim = s.prim ∧ (condition c yL
    yR s).portT = s.portT ∧ (condition c yL yR s).portA = s.portA ∧ (condition c yL yR
    s).portB = s.portB ∧ (condition c yL yR s).portL = s.portL ∧ (condition c yL yR s).pchg
    = s.pchg ∧ (condition c yL yR s).pubData = s.pubData ∧ (condition c yL yR s).controlQ =
    s.controlQ ∧ (condition c yL yR s).audioQ = s.audioQ ∧ (condition c yL yR s).hostQ =
    s.hostQ ∧ (condition c yL yR s).turn = s.turn :=
  ⟨rfl, rfl, rfl, rfl, rfl, rfl, rfl, rfl, rfl, rfl, rfl, rfl, rfl, rfl, rfl, rfl, rfl, rfl,
    rfl, rfl, rfl, rfl, rfl, rfl, rfl, rfl, rfl, rfl, rfl, rfl, rfl, rfl, rfl, rfl, rfl,
    rfl, rfl, rfl, rfl⟩

@[simp] theorem condition_hpX1 (c : Params) (yL yR : F) (s : State) :
    (condition c yL yR s).hpX1 = ⟨yL, yR⟩ := rfl

/-- `SMP` writes `dl`, `prim`, the filter memory, the counters and its results only (R187). -/
@[simp] theorem sample_frame (c : Params) (s : State) :
    (sample c s).potS = s.potS ∧ (sample c s).cvRaw = s.cvRaw ∧ (sample c s).cvS = s.cvS ∧
    (sample c s).cvMode = s.cvMode ∧ (sample c s).ctl = s.ctl ∧ (sample c s).gate = s.gate ∧
    (sample c s).hasEdge = s.hasEdge ∧ (sample c s).lastTapTime = s.lastTapTime ∧ (sample c
    s).armed = s.armed ∧ (sample c s).est = s.est ∧ (sample c s).level = s.level ∧ (sample c
    s).bank = s.bank ∧ (sample c s).index = s.index ∧ (sample c s).preview = s.preview ∧
    (sample c s).btnRawPrev = s.btnRawPrev ∧ (sample c s).btnTChange = s.btnTChange ∧
    (sample c s).btnStable = s.btnStable ∧ (sample c s).btnTPress = s.btnTPress ∧ (sample c
    s).btnLongDone = s.btnLongDone ∧ (sample c s).tInteract = s.tInteract ∧ (sample c
    s).aBank = s.aBank ∧ (sample c s).aIndex = s.aIndex ∧ (sample c s).aCtl = s.aCtl ∧
    (sample c s).aArmed = s.aArmed ∧ (sample c s).aEst = s.aEst ∧ (sample c s).portT =
    s.portT ∧ (sample c s).portA = s.portA ∧ (sample c s).portB = s.portB ∧ (sample c
    s).portL = s.portL ∧ (sample c s).pchg = s.pchg ∧ (sample c s).pubData = s.pubData ∧
    (sample c s).controlQ = s.controlQ ∧ (sample c s).audioQ = s.audioQ ∧ (sample c s).hostQ
    = s.hostQ ∧ (sample c s).turn = s.turn :=
  ⟨rfl, rfl, rfl, rfl, rfl, rfl, rfl, rfl, rfl, rfl, rfl, rfl, rfl, rfl, rfl, rfl, rfl, rfl,
    rfl, rfl, rfl, rfl, rfl, rfl, rfl, rfl, rfl, rfl, rfl, rfl, rfl, rfl, rfl, rfl, rfl⟩

@[simp] theorem sample_dl (c : Params) (s : State) :
    (sample c s).dl = nextDl c s := rfl

@[simp] theorem sample_prim (c : Params) (s : State) :
    (sample c s).prim = (dspCall c s).prim := rfl

@[simp] theorem sample_fadeRemaining (c : Params) (s : State) :
    (sample c s).fadeRemaining = s.fadeRemaining - 1 := rfl

@[simp] theorem sample_warmupRemaining (c : Params) (s : State) :
    (sample c s).warmupRemaining = s.warmupRemaining - 1 := rfl

/-- Withdrawing the results changes nothing else. -/
@[simp] theorem undriven_frame (s : State) :
    (undriven s).potS = s.potS ∧ (undriven s).cvRaw = s.cvRaw ∧ (undriven s).cvS = s.cvS ∧
    (undriven s).cvMode = s.cvMode ∧ (undriven s).ctl = s.ctl ∧ (undriven s).gate = s.gate ∧
    (undriven s).hasEdge = s.hasEdge ∧ (undriven s).lastTapTime = s.lastTapTime ∧ (undriven
    s).armed = s.armed ∧ (undriven s).est = s.est ∧ (undriven s).level = s.level ∧ (undriven
    s).bank = s.bank ∧ (undriven s).index = s.index ∧ (undriven s).preview = s.preview ∧
    (undriven s).btnRawPrev = s.btnRawPrev ∧ (undriven s).btnTChange = s.btnTChange ∧
    (undriven s).btnStable = s.btnStable ∧ (undriven s).btnTPress = s.btnTPress ∧ (undriven
    s).btnLongDone = s.btnLongDone ∧ (undriven s).tInteract = s.tInteract ∧ (undriven
    s).fadeRemaining = s.fadeRemaining ∧ (undriven s).warmupRemaining = s.warmupRemaining ∧
    (undriven s).aBank = s.aBank ∧ (undriven s).aIndex = s.aIndex ∧ (undriven s).aCtl =
    s.aCtl ∧ (undriven s).aArmed = s.aArmed ∧ (undriven s).aEst = s.aEst ∧ (undriven s).dl =
    s.dl ∧ (undriven s).prim = s.prim ∧ (undriven s).hpX1 = s.hpX1 ∧ (undriven s).hpY1 =
    s.hpY1 ∧ (undriven s).lpZ = s.lpZ ∧ (undriven s).portT = s.portT ∧ (undriven s).portA =
    s.portA ∧ (undriven s).portB = s.portB ∧ (undriven s).portL = s.portL ∧ (undriven
    s).controlQ = s.controlQ ∧ (undriven s).audioQ = s.audioQ ∧ (undriven s).hostQ = s.hostQ
    ∧ (undriven s).turn = s.turn :=
  ⟨rfl, rfl, rfl, rfl, rfl, rfl, rfl, rfl, rfl, rfl, rfl, rfl, rfl, rfl, rfl, rfl, rfl, rfl,
    rfl, rfl, rfl, rfl, rfl, rfl, rfl, rfl, rfl, rfl, rfl, rfl, rfl, rfl, rfl, rfl, rfl,
    rfl, rfl, rfl, rfl, rfl⟩

@[simp] theorem undriven_outL (s : State) :
    (undriven s).outL = none := rfl

@[simp] theorem undriven_outR (s : State) :
    (undriven s).outR = none := rfl

@[simp] theorem undriven_pchg (s : State) :
    (undriven s).pchg = none := rfl

@[simp] theorem undriven_pubData (s : State) :
    (undriven s).pubData = none := rfl

/-- Presenting a command changes the ports only (R81). -/
@[simp] theorem onPorts_frame (m : Command) (s : State) :
    (onPorts m s).potS = s.potS ∧ (onPorts m s).cvRaw = s.cvRaw ∧ (onPorts m s).cvS = s.cvS
    ∧ (onPorts m s).cvMode = s.cvMode ∧ (onPorts m s).ctl = s.ctl ∧ (onPorts m s).gate =
    s.gate ∧ (onPorts m s).hasEdge = s.hasEdge ∧ (onPorts m s).lastTapTime = s.lastTapTime ∧
    (onPorts m s).armed = s.armed ∧ (onPorts m s).est = s.est ∧ (onPorts m s).level =
    s.level ∧ (onPorts m s).bank = s.bank ∧ (onPorts m s).index = s.index ∧ (onPorts m
    s).preview = s.preview ∧ (onPorts m s).btnRawPrev = s.btnRawPrev ∧ (onPorts m
    s).btnTChange = s.btnTChange ∧ (onPorts m s).btnStable = s.btnStable ∧ (onPorts m
    s).btnTPress = s.btnTPress ∧ (onPorts m s).btnLongDone = s.btnLongDone ∧ (onPorts m
    s).tInteract = s.tInteract ∧ (onPorts m s).fadeRemaining = s.fadeRemaining ∧ (onPorts m
    s).warmupRemaining = s.warmupRemaining ∧ (onPorts m s).aBank = s.aBank ∧ (onPorts m
    s).aIndex = s.aIndex ∧ (onPorts m s).aCtl = s.aCtl ∧ (onPorts m s).aArmed = s.aArmed ∧
    (onPorts m s).aEst = s.aEst ∧ (onPorts m s).dl = s.dl ∧ (onPorts m s).prim = s.prim ∧
    (onPorts m s).hpX1 = s.hpX1 ∧ (onPorts m s).hpY1 = s.hpY1 ∧ (onPorts m s).lpZ = s.lpZ ∧
    (onPorts m s).controlQ = s.controlQ ∧ (onPorts m s).audioQ = s.audioQ ∧ (onPorts m
    s).hostQ = s.hostQ ∧ (onPorts m s).turn = s.turn :=
  ⟨rfl, rfl, rfl, rfl, rfl, rfl, rfl, rfl, rfl, rfl, rfl, rfl, rfl, rfl, rfl, rfl, rfl, rfl,
    rfl, rfl, rfl, rfl, rfl, rfl, rfl, rfl, rfl, rfl, rfl, rfl, rfl, rfl, rfl, rfl, rfl,
    rfl⟩

@[simp] theorem onPorts_portT (m : Command) (s : State) :
    (onPorts m s).portT = m.t := rfl

@[simp] theorem onPorts_portA (m : Command) (s : State) :
    (onPorts m s).portA = m.a := rfl

@[simp] theorem onPorts_portB (m : Command) (s : State) :
    (onPorts m s).portB = m.b := rfl

@[simp] theorem onPorts_portL (m : Command) (s : State) :
    (onPorts m s).portL = m.l := rfl

@[simp] theorem onPorts_outL (m : Command) (s : State) :
    (onPorts m s).outL = none := rfl

@[simp] theorem onPorts_outR (m : Command) (s : State) :
    (onPorts m s).outR = none := rfl

@[simp] theorem onPorts_pchg (m : Command) (s : State) :
    (onPorts m s).pchg = none := rfl

@[simp] theorem onPorts_pubData (m : Command) (s : State) :
    (onPorts m s).pubData = none := rfl

/-- What the event leaves alone (R162). -/
@[simp] theorem shortAtBank_frame (s : State) :
    (shortAtBank s).potS = s.potS ∧ (shortAtBank s).cvRaw = s.cvRaw ∧ (shortAtBank s).cvS =
    s.cvS ∧ (shortAtBank s).cvMode = s.cvMode ∧ (shortAtBank s).ctl = s.ctl ∧ (shortAtBank
    s).gate = s.gate ∧ (shortAtBank s).hasEdge = s.hasEdge ∧ (shortAtBank s).lastTapTime =
    s.lastTapTime ∧ (shortAtBank s).armed = s.armed ∧ (shortAtBank s).est = s.est ∧
    (shortAtBank s).level = s.level ∧ (shortAtBank s).bank = s.bank ∧ (shortAtBank s).index
    = s.index ∧ (shortAtBank s).btnRawPrev = s.btnRawPrev ∧ (shortAtBank s).btnTChange =
    s.btnTChange ∧ (shortAtBank s).btnStable = s.btnStable ∧ (shortAtBank s).btnTPress =
    s.btnTPress ∧ (shortAtBank s).btnLongDone = s.btnLongDone ∧ (shortAtBank s).tInteract =
    s.tInteract ∧ (shortAtBank s).fadeRemaining = s.fadeRemaining ∧ (shortAtBank
    s).warmupRemaining = s.warmupRemaining ∧ (shortAtBank s).aBank = s.aBank ∧ (shortAtBank
    s).aIndex = s.aIndex ∧ (shortAtBank s).aCtl = s.aCtl ∧ (shortAtBank s).aArmed = s.aArmed
    ∧ (shortAtBank s).aEst = s.aEst ∧ (shortAtBank s).dl = s.dl ∧ (shortAtBank s).prim =
    s.prim ∧ (shortAtBank s).hpX1 = s.hpX1 ∧ (shortAtBank s).hpY1 = s.hpY1 ∧ (shortAtBank
    s).lpZ = s.lpZ ∧ (shortAtBank s).portT = s.portT ∧ (shortAtBank s).portA = s.portA ∧
    (shortAtBank s).portB = s.portB ∧ (shortAtBank s).portL = s.portL ∧ (shortAtBank s).outL
    = s.outL ∧ (shortAtBank s).outR = s.outR ∧ (shortAtBank s).pchg = s.pchg ∧ (shortAtBank
    s).pubData = s.pubData ∧ (shortAtBank s).controlQ = s.controlQ ∧ (shortAtBank s).audioQ
    = s.audioQ ∧ (shortAtBank s).hostQ = s.hostQ ∧ (shortAtBank s).turn = s.turn :=
  ⟨rfl, rfl, rfl, rfl, rfl, rfl, rfl, rfl, rfl, rfl, rfl, rfl, rfl, rfl, rfl, rfl, rfl, rfl,
    rfl, rfl, rfl, rfl, rfl, rfl, rfl, rfl, rfl, rfl, rfl, rfl, rfl, rfl, rfl, rfl, rfl,
    rfl, rfl, rfl, rfl, rfl, rfl, rfl, rfl⟩

/-- What the event leaves alone (R165). -/
@[simp] theorem longAtPatch_frame (s : State) :
    (longAtPatch s).potS = s.potS ∧ (longAtPatch s).cvRaw = s.cvRaw ∧ (longAtPatch s).cvS =
    s.cvS ∧ (longAtPatch s).cvMode = s.cvMode ∧ (longAtPatch s).ctl = s.ctl ∧ (longAtPatch
    s).gate = s.gate ∧ (longAtPatch s).hasEdge = s.hasEdge ∧ (longAtPatch s).lastTapTime =
    s.lastTapTime ∧ (longAtPatch s).armed = s.armed ∧ (longAtPatch s).est = s.est ∧
    (longAtPatch s).bank = s.bank ∧ (longAtPatch s).index = s.index ∧ (longAtPatch
    s).btnRawPrev = s.btnRawPrev ∧ (longAtPatch s).btnTChange = s.btnTChange ∧ (longAtPatch
    s).btnStable = s.btnStable ∧ (longAtPatch s).btnTPress = s.btnTPress ∧ (longAtPatch
    s).btnLongDone = s.btnLongDone ∧ (longAtPatch s).tInteract = s.tInteract ∧ (longAtPatch
    s).fadeRemaining = s.fadeRemaining ∧ (longAtPatch s).warmupRemaining = s.warmupRemaining
    ∧ (longAtPatch s).aBank = s.aBank ∧ (longAtPatch s).aIndex = s.aIndex ∧ (longAtPatch
    s).aCtl = s.aCtl ∧ (longAtPatch s).aArmed = s.aArmed ∧ (longAtPatch s).aEst = s.aEst ∧
    (longAtPatch s).dl = s.dl ∧ (longAtPatch s).prim = s.prim ∧ (longAtPatch s).hpX1 =
    s.hpX1 ∧ (longAtPatch s).hpY1 = s.hpY1 ∧ (longAtPatch s).lpZ = s.lpZ ∧ (longAtPatch
    s).portT = s.portT ∧ (longAtPatch s).portA = s.portA ∧ (longAtPatch s).portB = s.portB ∧
    (longAtPatch s).portL = s.portL ∧ (longAtPatch s).outL = s.outL ∧ (longAtPatch s).outR =
    s.outR ∧ (longAtPatch s).pchg = s.pchg ∧ (longAtPatch s).pubData = s.pubData ∧
    (longAtPatch s).controlQ = s.controlQ ∧ (longAtPatch s).audioQ = s.audioQ ∧ (longAtPatch
    s).hostQ = s.hostQ ∧ (longAtPatch s).turn = s.turn :=
  ⟨rfl, rfl, rfl, rfl, rfl, rfl, rfl, rfl, rfl, rfl, rfl, rfl, rfl, rfl, rfl, rfl, rfl, rfl,
    rfl, rfl, rfl, rfl, rfl, rfl, rfl, rfl, rfl, rfl, rfl, rfl, rfl, rfl, rfl, rfl, rfl,
    rfl, rfl, rfl, rfl, rfl, rfl, rfl⟩

/-- What the event leaves alone (R163). -/
@[simp] theorem shortAtPatch_frame (c : Params) (s : State) :
    (shortAtPatch c s).potS = s.potS ∧ (shortAtPatch c s).cvRaw = s.cvRaw ∧ (shortAtPatch c
    s).cvS = s.cvS ∧ (shortAtPatch c s).cvMode = s.cvMode ∧ (shortAtPatch c s).ctl = s.ctl ∧
    (shortAtPatch c s).gate = s.gate ∧ (shortAtPatch c s).hasEdge = s.hasEdge ∧
    (shortAtPatch c s).lastTapTime = s.lastTapTime ∧ (shortAtPatch c s).armed = s.armed ∧
    (shortAtPatch c s).est = s.est ∧ (shortAtPatch c s).level = s.level ∧ (shortAtPatch c
    s).bank = s.bank ∧ (shortAtPatch c s).preview = s.preview ∧ (shortAtPatch c
    s).btnRawPrev = s.btnRawPrev ∧ (shortAtPatch c s).btnTChange = s.btnTChange ∧
    (shortAtPatch c s).btnStable = s.btnStable ∧ (shortAtPatch c s).btnTPress = s.btnTPress
    ∧ (shortAtPatch c s).btnLongDone = s.btnLongDone ∧ (shortAtPatch c s).tInteract =
    s.tInteract ∧ (shortAtPatch c s).aBank = s.aBank ∧ (shortAtPatch c s).aIndex = s.aIndex
    ∧ (shortAtPatch c s).aCtl = s.aCtl ∧ (shortAtPatch c s).aArmed = s.aArmed ∧
    (shortAtPatch c s).aEst = s.aEst ∧ (shortAtPatch c s).dl = s.dl ∧ (shortAtPatch c
    s).hpX1 = s.hpX1 ∧ (shortAtPatch c s).hpY1 = s.hpY1 ∧ (shortAtPatch c s).lpZ = s.lpZ ∧
    (shortAtPatch c s).portT = s.portT ∧ (shortAtPatch c s).portA = s.portA ∧ (shortAtPatch
    c s).portB = s.portB ∧ (shortAtPatch c s).portL = s.portL ∧ (shortAtPatch c s).outL =
    s.outL ∧ (shortAtPatch c s).outR = s.outR ∧ (shortAtPatch c s).pchg = s.pchg ∧
    (shortAtPatch c s).pubData = s.pubData ∧ (shortAtPatch c s).controlQ = s.controlQ ∧
    (shortAtPatch c s).audioQ = s.audioQ ∧ (shortAtPatch c s).hostQ = s.hostQ ∧
    (shortAtPatch c s).turn = s.turn :=
  ⟨rfl, rfl, rfl, rfl, rfl, rfl, rfl, rfl, rfl, rfl, rfl, rfl, rfl, rfl, rfl, rfl, rfl, rfl,
    rfl, rfl, rfl, rfl, rfl, rfl, rfl, rfl, rfl, rfl, rfl, rfl, rfl, rfl, rfl, rfl, rfl,
    rfl, rfl, rfl, rfl, rfl⟩

/-- What the event leaves alone (R164). -/
@[simp] theorem longAtBank_frame (c : Params) (s : State) :
    (longAtBank c s).potS = s.potS ∧ (longAtBank c s).cvRaw = s.cvRaw ∧ (longAtBank c s).cvS
    = s.cvS ∧ (longAtBank c s).cvMode = s.cvMode ∧ (longAtBank c s).ctl = s.ctl ∧
    (longAtBank c s).gate = s.gate ∧ (longAtBank c s).hasEdge = s.hasEdge ∧ (longAtBank c
    s).lastTapTime = s.lastTapTime ∧ (longAtBank c s).est = s.est ∧ (longAtBank c s).preview
    = s.preview ∧ (longAtBank c s).btnRawPrev = s.btnRawPrev ∧ (longAtBank c s).btnTChange =
    s.btnTChange ∧ (longAtBank c s).btnStable = s.btnStable ∧ (longAtBank c s).btnTPress =
    s.btnTPress ∧ (longAtBank c s).btnLongDone = s.btnLongDone ∧ (longAtBank c s).tInteract
    = s.tInteract ∧ (longAtBank c s).aBank = s.aBank ∧ (longAtBank c s).aIndex = s.aIndex ∧
    (longAtBank c s).aCtl = s.aCtl ∧ (longAtBank c s).aArmed = s.aArmed ∧ (longAtBank c
    s).aEst = s.aEst ∧ (longAtBank c s).dl = s.dl ∧ (longAtBank c s).hpX1 = s.hpX1 ∧
    (longAtBank c s).hpY1 = s.hpY1 ∧ (longAtBank c s).lpZ = s.lpZ ∧ (longAtBank c s).portT =
    s.portT ∧ (longAtBank c s).portA = s.portA ∧ (longAtBank c s).portB = s.portB ∧
    (longAtBank c s).portL = s.portL ∧ (longAtBank c s).outL = s.outL ∧ (longAtBank c
    s).outR = s.outR ∧ (longAtBank c s).pchg = s.pchg ∧ (longAtBank c s).pubData = s.pubData
    ∧ (longAtBank c s).controlQ = s.controlQ ∧ (longAtBank c s).audioQ = s.audioQ ∧
    (longAtBank c s).hostQ = s.hostQ ∧ (longAtBank c s).turn = s.turn :=
  ⟨rfl, rfl, rfl, rfl, rfl, rfl, rfl, rfl, rfl, rfl, rfl, rfl, rfl, rfl, rfl, rfl, rfl, rfl,
    rfl, rfl, rfl, rfl, rfl, rfl, rfl, rfl, rfl, rfl, rfl, rfl, rfl, rfl, rfl, rfl, rfl,
    rfl, rfl⟩

end Sys2Proof.Machine
end

