-- ==== Sys2Proof/Laws/Ops.lean ====
section
/-! SUPPORT. What each shared operation can do, said once: the frames of the operations with several
cases, the cases themselves, and what `withFiniteA`, `takeFrom` and `takeNext` answer. -/

namespace Sys2Proof.Machine

/-! ### Frames of the operations with cases -/

/-- A rising edge writes the tap registers only (R136). -/
@[simp] theorem tapRise_frame (c : Params) (s : State) :
    (tapRise c s).potS = s.potS ∧ (tapRise c s).cvRaw = s.cvRaw ∧ (tapRise c s).cvS = s.cvS
    ∧ (tapRise c s).cvMode = s.cvMode ∧ (tapRise c s).ctl = s.ctl ∧ (tapRise c s).level =
    s.level ∧ (tapRise c s).bank = s.bank ∧ (tapRise c s).index = s.index ∧ (tapRise c
    s).preview = s.preview ∧ (tapRise c s).btnRawPrev = s.btnRawPrev ∧ (tapRise c
    s).btnTChange = s.btnTChange ∧ (tapRise c s).btnStable = s.btnStable ∧ (tapRise c
    s).btnTPress = s.btnTPress ∧ (tapRise c s).btnLongDone = s.btnLongDone ∧ (tapRise c
    s).tInteract = s.tInteract ∧ (tapRise c s).fadeRemaining = s.fadeRemaining ∧ (tapRise c
    s).warmupRemaining = s.warmupRemaining ∧ (tapRise c s).aBank = s.aBank ∧ (tapRise c
    s).aIndex = s.aIndex ∧ (tapRise c s).aCtl = s.aCtl ∧ (tapRise c s).aArmed = s.aArmed ∧
    (tapRise c s).aEst = s.aEst ∧ (tapRise c s).dl = s.dl ∧ (tapRise c s).prim = s.prim ∧
    (tapRise c s).hpX1 = s.hpX1 ∧ (tapRise c s).hpY1 = s.hpY1 ∧ (tapRise c s).lpZ = s.lpZ ∧
    (tapRise c s).portT = s.portT ∧ (tapRise c s).portA = s.portA ∧ (tapRise c s).portB =
    s.portB ∧ (tapRise c s).portL = s.portL ∧ (tapRise c s).outL = s.outL ∧ (tapRise c
    s).outR = s.outR ∧ (tapRise c s).pchg = s.pchg ∧ (tapRise c s).pubData = s.pubData ∧
    (tapRise c s).controlQ = s.controlQ ∧ (tapRise c s).audioQ = s.audioQ ∧ (tapRise c
    s).hostQ = s.hostQ ∧ (tapRise c s).turn = s.turn := by
  unfold tapRise
  dsimp only
  split <;> simp

/-- The edge logic writes the tap registers only (R136). -/
@[simp] theorem tapEdge_frame (c : Params) (s : State) :
    (tapEdge c s).potS = s.potS ∧ (tapEdge c s).cvRaw = s.cvRaw ∧ (tapEdge c s).cvS = s.cvS
    ∧ (tapEdge c s).cvMode = s.cvMode ∧ (tapEdge c s).ctl = s.ctl ∧ (tapEdge c s).level =
    s.level ∧ (tapEdge c s).bank = s.bank ∧ (tapEdge c s).index = s.index ∧ (tapEdge c
    s).preview = s.preview ∧ (tapEdge c s).btnRawPrev = s.btnRawPrev ∧ (tapEdge c
    s).btnTChange = s.btnTChange ∧ (tapEdge c s).btnStable = s.btnStable ∧ (tapEdge c
    s).btnTPress = s.btnTPress ∧ (tapEdge c s).btnLongDone = s.btnLongDone ∧ (tapEdge c
    s).tInteract = s.tInteract ∧ (tapEdge c s).fadeRemaining = s.fadeRemaining ∧ (tapEdge c
    s).warmupRemaining = s.warmupRemaining ∧ (tapEdge c s).aBank = s.aBank ∧ (tapEdge c
    s).aIndex = s.aIndex ∧ (tapEdge c s).aCtl = s.aCtl ∧ (tapEdge c s).aArmed = s.aArmed ∧
    (tapEdge c s).aEst = s.aEst ∧ (tapEdge c s).dl = s.dl ∧ (tapEdge c s).prim = s.prim ∧
    (tapEdge c s).hpX1 = s.hpX1 ∧ (tapEdge c s).hpY1 = s.hpY1 ∧ (tapEdge c s).lpZ = s.lpZ ∧
    (tapEdge c s).portT = s.portT ∧ (tapEdge c s).portA = s.portA ∧ (tapEdge c s).portB =
    s.portB ∧ (tapEdge c s).portL = s.portL ∧ (tapEdge c s).outL = s.outL ∧ (tapEdge c
    s).outR = s.outR ∧ (tapEdge c s).pchg = s.pchg ∧ (tapEdge c s).pubData = s.pubData ∧
    (tapEdge c s).controlQ = s.controlQ ∧ (tapEdge c s).audioQ = s.audioQ ∧ (tapEdge c
    s).hostQ = s.hostQ ∧ (tapEdge c s).turn = s.turn := by
  unfold tapEdge
  split
  · simp
  · split <;> simp

/-- The expiry test writes `armed` only (R136). -/
@[simp] theorem tapExpire_frame (s : State) :
    (tapExpire s).potS = s.potS ∧ (tapExpire s).cvRaw = s.cvRaw ∧ (tapExpire s).cvS = s.cvS
    ∧ (tapExpire s).cvMode = s.cvMode ∧ (tapExpire s).ctl = s.ctl ∧ (tapExpire s).gate =
    s.gate ∧ (tapExpire s).hasEdge = s.hasEdge ∧ (tapExpire s).lastTapTime = s.lastTapTime ∧
    (tapExpire s).est = s.est ∧ (tapExpire s).level = s.level ∧ (tapExpire s).bank = s.bank
    ∧ (tapExpire s).index = s.index ∧ (tapExpire s).preview = s.preview ∧ (tapExpire
    s).btnRawPrev = s.btnRawPrev ∧ (tapExpire s).btnTChange = s.btnTChange ∧ (tapExpire
    s).btnStable = s.btnStable ∧ (tapExpire s).btnTPress = s.btnTPress ∧ (tapExpire
    s).btnLongDone = s.btnLongDone ∧ (tapExpire s).tInteract = s.tInteract ∧ (tapExpire
    s).fadeRemaining = s.fadeRemaining ∧ (tapExpire s).warmupRemaining = s.warmupRemaining ∧
    (tapExpire s).aBank = s.aBank ∧ (tapExpire s).aIndex = s.aIndex ∧ (tapExpire s).aCtl =
    s.aCtl ∧ (tapExpire s).aArmed = s.aArmed ∧ (tapExpire s).aEst = s.aEst ∧ (tapExpire
    s).dl = s.dl ∧ (tapExpire s).prim = s.prim ∧ (tapExpire s).hpX1 = s.hpX1 ∧ (tapExpire
    s).hpY1 = s.hpY1 ∧ (tapExpire s).lpZ = s.lpZ ∧ (tapExpire s).portT = s.portT ∧
    (tapExpire s).portA = s.portA ∧ (tapExpire s).portB = s.portB ∧ (tapExpire s).portL =
    s.portL ∧ (tapExpire s).outL = s.outL ∧ (tapExpire s).outR = s.outR ∧ (tapExpire s).pchg
    = s.pchg ∧ (tapExpire s).pubData = s.pubData ∧ (tapExpire s).controlQ = s.controlQ ∧
    (tapExpire s).audioQ = s.audioQ ∧ (tapExpire s).hostQ = s.hostQ ∧ (tapExpire s).turn =
    s.turn := by
  unfold tapExpire
  split <;> simp

/-- `TAPU` writes the five tap registers only (R136). -/
@[simp] theorem tapUpdate_frame (c : Params) (s : State) :
    (tapUpdate c s).potS = s.potS ∧ (tapUpdate c s).cvRaw = s.cvRaw ∧ (tapUpdate c s).cvS =
    s.cvS ∧ (tapUpdate c s).cvMode = s.cvMode ∧ (tapUpdate c s).ctl = s.ctl ∧ (tapUpdate c
    s).level = s.level ∧ (tapUpdate c s).bank = s.bank ∧ (tapUpdate c s).index = s.index ∧
    (tapUpdate c s).preview = s.preview ∧ (tapUpdate c s).btnRawPrev = s.btnRawPrev ∧
    (tapUpdate c s).btnTChange = s.btnTChange ∧ (tapUpdate c s).btnStable = s.btnStable ∧
    (tapUpdate c s).btnTPress = s.btnTPress ∧ (tapUpdate c s).btnLongDone = s.btnLongDone ∧
    (tapUpdate c s).tInteract = s.tInteract ∧ (tapUpdate c s).fadeRemaining =
    s.fadeRemaining ∧ (tapUpdate c s).warmupRemaining = s.warmupRemaining ∧ (tapUpdate c
    s).aBank = s.aBank ∧ (tapUpdate c s).aIndex = s.aIndex ∧ (tapUpdate c s).aCtl = s.aCtl ∧
    (tapUpdate c s).aArmed = s.aArmed ∧ (tapUpdate c s).aEst = s.aEst ∧ (tapUpdate c s).dl =
    s.dl ∧ (tapUpdate c s).prim = s.prim ∧ (tapUpdate c s).hpX1 = s.hpX1 ∧ (tapUpdate c
    s).hpY1 = s.hpY1 ∧ (tapUpdate c s).lpZ = s.lpZ ∧ (tapUpdate c s).portT = s.portT ∧
    (tapUpdate c s).portA = s.portA ∧ (tapUpdate c s).portB = s.portB ∧ (tapUpdate c
    s).portL = s.portL ∧ (tapUpdate c s).outL = s.outL ∧ (tapUpdate c s).outR = s.outR ∧
    (tapUpdate c s).pchg = s.pchg ∧ (tapUpdate c s).pubData = s.pubData ∧ (tapUpdate c
    s).controlQ = s.controlQ ∧ (tapUpdate c s).audioQ = s.audioQ ∧ (tapUpdate c s).hostQ =
    s.hostQ ∧ (tapUpdate c s).turn = s.turn := by
  unfold tapUpdate
  split <;> simp

/-- Step 1 of `BTNU` writes the raw level and its time only (R156). -/
@[simp] theorem btnTrack_frame (s : State) :
    (btnTrack s).potS = s.potS ∧ (btnTrack s).cvRaw = s.cvRaw ∧ (btnTrack s).cvS = s.cvS ∧
    (btnTrack s).cvMode = s.cvMode ∧ (btnTrack s).ctl = s.ctl ∧ (btnTrack s).gate = s.gate ∧
    (btnTrack s).hasEdge = s.hasEdge ∧ (btnTrack s).lastTapTime = s.lastTapTime ∧ (btnTrack
    s).armed = s.armed ∧ (btnTrack s).est = s.est ∧ (btnTrack s).level = s.level ∧ (btnTrack
    s).bank = s.bank ∧ (btnTrack s).index = s.index ∧ (btnTrack s).preview = s.preview ∧
    (btnTrack s).btnStable = s.btnStable ∧ (btnTrack s).btnTPress = s.btnTPress ∧ (btnTrack
    s).btnLongDone = s.btnLongDone ∧ (btnTrack s).tInteract = s.tInteract ∧ (btnTrack
    s).fadeRemaining = s.fadeRemaining ∧ (btnTrack s).warmupRemaining = s.warmupRemaining ∧
    (btnTrack s).aBank = s.aBank ∧ (btnTrack s).aIndex = s.aIndex ∧ (btnTrack s).aCtl =
    s.aCtl ∧ (btnTrack s).aArmed = s.aArmed ∧ (btnTrack s).aEst = s.aEst ∧ (btnTrack s).dl =
    s.dl ∧ (btnTrack s).prim = s.prim ∧ (btnTrack s).hpX1 = s.hpX1 ∧ (btnTrack s).hpY1 =
    s.hpY1 ∧ (btnTrack s).lpZ = s.lpZ ∧ (btnTrack s).portT = s.portT ∧ (btnTrack s).portA =
    s.portA ∧ (btnTrack s).portB = s.portB ∧ (btnTrack s).portL = s.portL ∧ (btnTrack
    s).outL = s.outL ∧ (btnTrack s).outR = s.outR ∧ (btnTrack s).pchg = s.pchg ∧ (btnTrack
    s).pubData = s.pubData ∧ (btnTrack s).controlQ = s.controlQ ∧ (btnTrack s).audioQ =
    s.audioQ ∧ (btnTrack s).hostQ = s.hostQ ∧ (btnTrack s).turn = s.turn := by
  unfold btnTrack
  split <;> simp

/-- Step 2 of `BTNU` (R156). -/
@[simp] theorem btnDebounce_frame (s : State) :
    (btnDebounce s).1.potS = s.potS ∧ (btnDebounce s).1.cvRaw = s.cvRaw ∧ (btnDebounce
    s).1.cvS = s.cvS ∧ (btnDebounce s).1.cvMode = s.cvMode ∧ (btnDebounce s).1.ctl = s.ctl ∧
    (btnDebounce s).1.gate = s.gate ∧ (btnDebounce s).1.hasEdge = s.hasEdge ∧ (btnDebounce
    s).1.lastTapTime = s.lastTapTime ∧ (btnDebounce s).1.armed = s.armed ∧ (btnDebounce
    s).1.est = s.est ∧ (btnDebounce s).1.level = s.level ∧ (btnDebounce s).1.bank = s.bank ∧
    (btnDebounce s).1.index = s.index ∧ (btnDebounce s).1.preview = s.preview ∧ (btnDebounce
    s).1.btnRawPrev = s.btnRawPrev ∧ (btnDebounce s).1.btnTChange = s.btnTChange ∧
    (btnDebounce s).1.fadeRemaining = s.fadeRemaining ∧ (btnDebounce s).1.warmupRemaining =
    s.warmupRemaining ∧ (btnDebounce s).1.aBank = s.aBank ∧ (btnDebounce s).1.aIndex =
    s.aIndex ∧ (btnDebounce s).1.aCtl = s.aCtl ∧ (btnDebounce s).1.aArmed = s.aArmed ∧
    (btnDebounce s).1.aEst = s.aEst ∧ (btnDebounce s).1.dl = s.dl ∧ (btnDebounce s).1.prim =
    s.prim ∧ (btnDebounce s).1.hpX1 = s.hpX1 ∧ (btnDebounce s).1.hpY1 = s.hpY1 ∧
    (btnDebounce s).1.lpZ = s.lpZ ∧ (btnDebounce s).1.portT = s.portT ∧ (btnDebounce
    s).1.portA = s.portA ∧ (btnDebounce s).1.portB = s.portB ∧ (btnDebounce s).1.portL =
    s.portL ∧ (btnDebounce s).1.outL = s.outL ∧ (btnDebounce s).1.outR = s.outR ∧
    (btnDebounce s).1.pchg = s.pchg ∧ (btnDebounce s).1.pubData = s.pubData ∧ (btnDebounce
    s).1.controlQ = s.controlQ ∧ (btnDebounce s).1.audioQ = s.audioQ ∧ (btnDebounce
    s).1.hostQ = s.hostQ ∧ (btnDebounce s).1.turn = s.turn := by
  unfold btnDebounce
  split
  · split <;> simp
  · simp

/-- Steps 1 to 3 of `BTNU` write the six button registers only (R156). -/
@[simp] theorem btnPoll_frame (s : State) :
    (btnPoll s).1.potS = s.potS ∧ (btnPoll s).1.cvRaw = s.cvRaw ∧ (btnPoll s).1.cvS = s.cvS
    ∧ (btnPoll s).1.cvMode = s.cvMode ∧ (btnPoll s).1.ctl = s.ctl ∧ (btnPoll s).1.gate =
    s.gate ∧ (btnPoll s).1.hasEdge = s.hasEdge ∧ (btnPoll s).1.lastTapTime = s.lastTapTime ∧
    (btnPoll s).1.armed = s.armed ∧ (btnPoll s).1.est = s.est ∧ (btnPoll s).1.level =
    s.level ∧ (btnPoll s).1.bank = s.bank ∧ (btnPoll s).1.index = s.index ∧ (btnPoll
    s).1.preview = s.preview ∧ (btnPoll s).1.fadeRemaining = s.fadeRemaining ∧ (btnPoll
    s).1.warmupRemaining = s.warmupRemaining ∧ (btnPoll s).1.aBank = s.aBank ∧ (btnPoll
    s).1.aIndex = s.aIndex ∧ (btnPoll s).1.aCtl = s.aCtl ∧ (btnPoll s).1.aArmed = s.aArmed ∧
    (btnPoll s).1.aEst = s.aEst ∧ (btnPoll s).1.dl = s.dl ∧ (btnPoll s).1.prim = s.prim ∧
    (btnPoll s).1.hpX1 = s.hpX1 ∧ (btnPoll s).1.hpY1 = s.hpY1 ∧ (btnPoll s).1.lpZ = s.lpZ ∧
    (btnPoll s).1.portT = s.portT ∧ (btnPoll s).1.portA = s.portA ∧ (btnPoll s).1.portB =
    s.portB ∧ (btnPoll s).1.portL = s.portL ∧ (btnPoll s).1.outL = s.outL ∧ (btnPoll
    s).1.outR = s.outR ∧ (btnPoll s).1.pchg = s.pchg ∧ (btnPoll s).1.pubData = s.pubData ∧
    (btnPoll s).1.controlQ = s.controlQ ∧ (btnPoll s).1.audioQ = s.audioQ ∧ (btnPoll
    s).1.hostQ = s.hostQ ∧ (btnPoll s).1.turn = s.turn := by
  unfold btnPoll btnHold
  split <;> simp

/-- `BTNU` writes the button registers, and through its event the selector, `armed` and what `COMMIT`
writes (R156). -/
@[simp] theorem btnUpdate_frame (c : Params) (s : State) :
    (btnUpdate c s).potS = s.potS ∧ (btnUpdate c s).cvRaw = s.cvRaw ∧ (btnUpdate c s).cvS =
    s.cvS ∧ (btnUpdate c s).cvMode = s.cvMode ∧ (btnUpdate c s).ctl = s.ctl ∧ (btnUpdate c
    s).gate = s.gate ∧ (btnUpdate c s).hasEdge = s.hasEdge ∧ (btnUpdate c s).lastTapTime =
    s.lastTapTime ∧ (btnUpdate c s).est = s.est ∧ (btnUpdate c s).aBank = s.aBank ∧
    (btnUpdate c s).aIndex = s.aIndex ∧ (btnUpdate c s).aCtl = s.aCtl ∧ (btnUpdate c
    s).aArmed = s.aArmed ∧ (btnUpdate c s).aEst = s.aEst ∧ (btnUpdate c s).dl = s.dl ∧
    (btnUpdate c s).hpX1 = s.hpX1 ∧ (btnUpdate c s).hpY1 = s.hpY1 ∧ (btnUpdate c s).lpZ =
    s.lpZ ∧ (btnUpdate c s).portT = s.portT ∧ (btnUpdate c s).portA = s.portA ∧ (btnUpdate c
    s).portB = s.portB ∧ (btnUpdate c s).portL = s.portL ∧ (btnUpdate c s).outL = s.outL ∧
    (btnUpdate c s).outR = s.outR ∧ (btnUpdate c s).pubData = s.pubData ∧ (btnUpdate c
    s).controlQ = s.controlQ ∧ (btnUpdate c s).audioQ = s.audioQ ∧ (btnUpdate c s).hostQ =
    s.hostQ ∧ (btnUpdate c s).turn = s.turn := by
  unfold btnUpdate btnDispatch evShort evLong
  dsimp only
  split
  · simp
  · split <;> simp
  · split <;> simp

/-! ### Cases -/

/-- The edge logic of `TAPU` is a rising edge, a falling edge, or nothing (R136, R139 f). -/
theorem tapEdge_cases (c : Params) (s : State) :
    (s.gate = false ∧ fgt s.portA c.tapHigh = true ∧ tapEdge c s = tapRise c s) ∨
      (s.gate = true ∧ flt s.portA c.tapLow = true ∧ tapEdge c s = { s with gate := false }) ∨
      tapEdge c s = s := by
  unfold tapEdge
  cases hg : s.gate <;> cases hh : fgt s.portA c.tapHigh <;> cases hl : flt s.portA c.tapLow <;>
    simp

/-- What `BTNU` answers, by the event its poll raised and the level (R161, R167). -/
theorem btnUpdate_cases (c : Params) (s : State) :
    ((btnPoll s).2 = .none ∧ btnUpdate c s = { (btnPoll s).1 with pchg := some false }) ∨
      ((btnPoll s).2 = .short ∧ s.level = .bank ∧
        btnUpdate c s = { shortAtBank (btnPoll s).1 with pchg := some false }) ∨
      ((btnPoll s).2 = .short ∧ s.level = .patch ∧
        btnUpdate c s = { shortAtPatch c (btnPoll s).1 with pchg := some true }) ∨
      ((btnPoll s).2 = .long ∧ s.level = .bank ∧
        btnUpdate c s = { longAtBank c (btnPoll s).1 with pchg := some true }) ∨
      ((btnPoll s).2 = .long ∧ s.level = .patch ∧
        btnUpdate c s = { longAtPatch (btnPoll s).1 with pchg := some false }) := by
  unfold btnUpdate btnDispatch evShort evLong
  cases he : (btnPoll s).2 <;> cases hl : s.level <;> simp [hl]

/-- Stage 1 of `SMP` for a slot in use yields a value of the safe range, or a NaN (R195). -/
theorem slotParam_nat (c : Params) (d : Descriptor) (ctl : PerChan F) (armed : Bool) (est dl : F)
    (hv : descValid d = true) :
    ∃ x, (slotParam c d ctl armed est dl).nat = clamp x d.cmin d.cmax := by
  unfold slotParam
  rw [if_pos hv]
  dsimp only
  split <;> exact ⟨_, rfl⟩

/-- An operation on port `A` answers its next state exactly on a finite operand (R13). -/
theorem withFiniteA_eq_next {s t u : State} :
    withFiniteA s t = .next u ↔ isFinite s.portA = true ∧ t = u := by
  unfold withFiniteA
  split <;> simp_all

/-- An operation on ports `A` and `B` answers its next state exactly on finite operands (R13). -/
theorem withFiniteAB_eq_next {s t u : State} :
    withFiniteAB s t = .next u ↔ (isFinite s.portA = true ∧ isFinite s.portB = true) ∧ t = u := by
  unfold withFiniteAB
  split <;> simp_all

/-! ### Taking the next item -/

/-- Taking an item changes the schedule only. -/
theorem takeFrom_spec {g : Agent} {s s' : State} {r : Request}
    (h : takeFrom g s = some (r, s')) :
    controlRegs s' = controlRegs s ∧ audioRegs s' = audioRegs s ∧ sharedRegs s' = sharedRegs s ∧
      inputPorts s' = inputPorts s ∧ s'.turn = s.turn + 1 := by
  unfold takeFrom at h
  split at h <;> split at h <;> simp only [Option.some.injEq, Prod.mk.injEq, reduceCtorEq] at h <;>
    (obtain ⟨-, rfl⟩ := h; exact ⟨rfl, rfl, rfl, rfl, rfl⟩)

theorem takeNext_spec {s s' : State} {r : Request} (h : takeNext s = some (r, s')) :
    controlRegs s' = controlRegs s ∧ audioRegs s' = audioRegs s ∧ sharedRegs s' = sharedRegs s ∧
      inputPorts s' = inputPorts s ∧ s'.turn = s.turn + 1 := by
  unfold takeNext at h
  cases hg : granted s with
  | none => simp [hg] at h
  | some g => exact takeFrom_spec (by simpa [hg] using h)

/-- What a step that answers a next state did: idled, ran one legal operation of its issuer, or read one
published word. -/
theorem step_cases {s t : State} (h : step s = .next t) :
    (takeNext s = none ∧ t = undriven s) ∨
      (∃ g m s' i, takeNext s = some (.command g m, s') ∧ decode m.cw = .ok i ∧
        mayIssue g i = true ∧ exec i (onPorts m s') = .next t) ∨
      (∃ n s' w, takeNext s = some (.readPub n, s') ∧ pubWord s' n = some w ∧
        t = { undriven s' with pubData := some w }) := by
  unfold step serve at h
  split at h
  · rename_i hn
    exact .inl ⟨hn, by simpa [exec, execNop] using h.symm⟩
  · rename_i g m s' hn
    unfold runCommand at h
    split at h
    · cases h
    · rename_i i hd
      split at h
      · rename_i hi
        exact .inr (.inl ⟨g, m, s', i, hn, hd, hi, h⟩)
      · cases h
  · rename_i n s' hn
    unfold readPublished at h
    split at h
    · rename_i w hw
      exact .inr (.inr ⟨n, s', w, hn, hw, by simpa using h.symm⟩)
    · cases h

/-! ### Schedules -/

/-- A well-formed control sequence that starts with a `TICK`: its time may follow, and the rest is well
formed after it (R98). -/
theorem controlSchedule_tick {prev : Option Time} {t : Time} {p0 p1 p2 v1 v2 g : F} {b : Bool}
    {q : List Command} (h : ControlSchedule prev (tick t p0 p1 p2 v1 v2 g b ++ q)) :
    (∀ u, prev = some u → timeFollows u t = true) ∧ ControlSchedule (some t) q := by
  generalize hr : tick t p0 p1 p2 v1 v2 g b ++ q = r at h
  cases h with
  | nil => simp [tick] at hr
  | nop => simp [tick, command, encode, chOf, opOf] at hr
  | tick _ _ _ _ _ _ _ _ _ h hq =>
    simp only [tick, command, List.cons_append, List.nil_append, List.cons.injEq, Command.mk.injEq] at hr
    obtain ⟨-, -, -, -, -, -, -, -, ⟨-, ht, -⟩, -, rfl⟩ := hr
    subst ht
    exact ⟨h, hq⟩

end Sys2Proof.Machine
end

