-- ==== Sys2Proof/Laws/PerInstr.lean ====
section
/-! SUPPORT. One lemma per operation, for statements about all operations: the three fields of its
command word, and that the agent it belongs to may issue it. -/

namespace Sys2Proof.Laws.CommandFields

/-- The command word of `i` reads back its reserved bits 00, its code and its channel (R80, R82), and its
owner may issue it (R252). -/
def Statement (i : Instr) : Prop :=
  cwRsv (encode i) = 0 ∧ cwOp (encode i) = opOf i ∧ cwCh (encode i) = chOf i ∧
    Machine.mayIssue (Machine.ownerOf i) i = true

theorem nop : Statement .nop := by unfold Statement; decide
theorem rst : Statement .rst := by unfold Statement; decide
theorem potsm0 : Statement .potsm0 := by unfold Statement; decide
theorem potsm1 : Statement .potsm1 := by unfold Statement; decide
theorem potsm2 : Statement .potsm2 := by unfold Statement; decide
theorem cvsm1 : Statement .cvsm1 := by unfold Statement; decide
theorem cvsm2 : Statement .cvsm2 := by unfold Statement; decide
theorem tko0 : Statement .tko0 := by unfold Statement; decide
theorem tko1 : Statement .tko1 := by unfold Statement; decide
theorem tko2 : Statement .tko2 := by unfold Statement; decide
theorem tapu : Statement .tapu := by unfold Statement; decide
theorem btnu : Statement .btnu := by unfold Statement; decide
theorem blk : Statement .blk := by unfold Statement; decide
theorem smp : Statement .smp := by unfold Statement; decide

end Sys2Proof.Laws.CommandFields
end

