-- ==== Sys2Proof/Tests/Slice0.lean ====
section
/-! SUPPORT. Small tests of the definitions and, for every statement with hypotheses, a witness that they
can be met together. Expected values come from 95_test_vectors.md (the vector is named) or are worked
out by hand from the rule named. -/

namespace Sys2Proof.Tests
open Sys2Proof Sys2Proof.Machine

/-! ### The test configuration `CFG_T` (95_test_vectors section 2), with the stub `DSP_ID` -/

def half : F := 0x3F000000#32

/-- The exact values of `POWF` that the vectors use. -/
def powfT (b t : F) : F :=
  if t = fZero then fOne
  else if t = fOne then b
  else if b = 0x43800000#32 ∧ t = half then 0x41800000#32   -- 256 ^ 0.5 = 16
  else if b = 0x42800000#32 ∧ t = half then 0x41000000#32   -- 64 ^ 0.5 = 8
  else fOne

def lutT (p : PatchNo) (j : Slot) : Descriptor :=
  match j with
  | .s0 =>
    if p < 4 then ⟨0x03#8, 0x3F333333#32, 0x3F7AE148#32, 0x3F333333#32, 0x3F7AE148#32⟩
    else ⟨0x6B#8, 0x41800000#32, 0x44800000#32, 0x3F800000#32, 0x47BB8000#32⟩
  | .s1 =>
    if p < 4 then ⟨0x2D#8, 0x3F800000#32, 0x43800000#32, 0x3F800000#32, 0x46800000#32⟩
    else ⟨0x05#8, 0x00000000#32, 0x3F666666#32, 0x00000000#32, 0x3F666666#32⟩
  | _ => ⟨0x00#8, fZero, fZero, fZero, fZero⟩

def cfgT : Params where
  delayBank := .b
  sampleRate := 0x473B8000#32
  blockSize := 4
  cvAlphaRise := ⟨0x3E800000#32, 0x3E800000#32⟩
  cvAlphaFall := ⟨half, half⟩
  tapHigh := 0x40000000#32
  tapLow := fOne
  fadeLen := 4
  warmupLen := 16
  needsWarmup := fun p => p == 3
  lut := lutT
  dlyBeta := half
  dcR := half
  lpA := half
  epsDen := 0x35800000#32
  initPot := ⟨half, half, half⟩
  initCv := ⟨fZero, fZero⟩
  powf := powfT
  dspReset := ⟨[]⟩
  dspStep := fun _ _ _ l r s => ⟨l, r, s⟩

/-- The state after `RST` under `CFG_T`. -/
def base : State := State.initial cfgT

/-! ### Well-formedness: `CFG_T` passes, and each check refuses an ill-formed term -/

theorem test_cfgT_checks :
    cfgT.coefsOk = true ∧ cfgT.lengthsOk = true ∧ cfgT.thresholdsOk = true ∧ cfgT.seedsOk = true ∧
      cfgT.lutEntriesOk = true ∧ cfgT.lutContentOk = true := by decide +kernel

def plusInf : F := 0x7F800000#32
def aNaN : F := 0x7FC00000#32
def two : F := 0x40000000#32

/-- A well-formed tap-overridable `DELAY` slot, the base of the ill-formed ones below. -/
def good : Descriptor := ⟨0x6B#8, fOne, two, fOne, two⟩

theorem test_desc_good : good.wellFormed = true := by decide
theorem test_desc_reservedBit : { good with h := 0xEB#8 }.wellFormed = false := by decide
theorem test_desc_src3 : { good with h := 0x6F#8 }.wellFormed = false := by decide
theorem test_desc_lo : { good with lo := plusInf }.wellFormed = false := by decide
theorem test_desc_hi : { good with hi := aNaN }.wellFormed = false := by decide
theorem test_desc_cmin : { good with cmin := aNaN }.wellFormed = false := by decide
theorem test_desc_cmax : { good with cmax := plusInf }.wellFormed = false := by decide
theorem test_desc_range : { good with cmin := two, cmax := fOne }.wellFormed = false := by decide
theorem test_desc_expLo : { good with lo := fZero }.wellFormed = false := by decide
theorem test_desc_expHi : { good with hi := 0xBF800000#32 }.wellFormed = false := by decide
theorem test_desc_tapNoDelay : { good with h := 0x4B#8 }.wellFormed = false := by decide
theorem test_desc_delayCmin : { good with cmin := fZero }.wellFormed = false := by decide
/-- R93: in an unused slot the other fields are ignored. -/
theorem test_desc_unused : (⟨0x06#8, aNaN, aNaN, two, fOne⟩ : Descriptor).wellFormed = true := by decide

theorem test_coefs_refused :
    { cfgT with cvAlphaRise := ⟨fZero, fOne⟩ }.coefsOk = false ∧
    { cfgT with cvAlphaRise := ⟨fOne, two⟩ }.coefsOk = false ∧
    { cfgT with cvAlphaFall := ⟨two, fOne⟩ }.coefsOk = false ∧
    { cfgT with cvAlphaFall := ⟨fOne, fZero⟩ }.coefsOk = false ∧
    { cfgT with dlyBeta := two }.coefsOk = false ∧ { cfgT with lpA := fZero }.coefsOk = false ∧
    { cfgT with dcR := fOne }.coefsOk = false ∧ { cfgT with sampleRate := fZero }.coefsOk = false ∧
    { cfgT with epsDen := plusInf }.coefsOk = false := by decide +kernel

theorem test_lengths_refused :
    { cfgT with blockSize := 0 }.lengthsOk = false ∧ { cfgT with fadeLen := 0 }.lengthsOk = false ∧
    { cfgT with warmupLen := 4 }.lengthsOk = false ∧
    { cfgT with warmupLen := 2 ^ 24 }.lengthsOk = false := by decide +kernel

theorem test_thresholds_refused :
    { cfgT with tapLow := two }.thresholdsOk = false ∧
    { cfgT with tapHigh := plusInf }.thresholdsOk = false := by decide +kernel

theorem test_seeds_refused :
    { cfgT with initPot := ⟨two, half, half⟩ }.seedsOk = false ∧
    { cfgT with initPot := ⟨half, aNaN, half⟩ }.seedsOk = false ∧
    { cfgT with initPot := ⟨half, half, 0xBF000000#32⟩ }.seedsOk = false ∧
    { cfgT with initCv := ⟨plusInf, fZero⟩ }.seedsOk = false ∧
    { cfgT with initCv := ⟨fZero, aNaN⟩ }.seedsOk = false := by decide +kernel

theorem test_lutEntries_refused :
    { cfgT with lut := fun _ _ => { good with h := 0xEB#8 } }.lutEntriesOk = false := by decide +kernel

/-- `CFG_T` with the descriptor `d` in slot `j` of patch `p`. -/
def withSlot (p : PatchNo) (j : Slot) (d : Descriptor) : Params :=
  { cfgT with lut := fun p' j' => if p' = p ∧ j' = j then d else lutT p' j' }

/-- No decay parameter (a), no pre-delay (b), no tap time (c), no feedback amount (d). -/
theorem test_lutContent_refused :
    (withSlot 0 .s0 (lutT 0 .s2)).lutContentOk = false ∧
    (withSlot 2 .s1 (lutT 0 .s2)).lutContentOk = false ∧
    (withSlot 7 .s0 (lutT 0 .s2)).lutContentOk = false ∧
    (withSlot 4 .s1 (lutT 0 .s2)).lutContentOk = false := by decide +kernel

/-- A linear pre-delay is none (R193 b): header 0x25, source 2, `LIN`, `DELAY`. -/
theorem test_lutContent_linearPreDelay :
    (withSlot 1 .s1 { lutT 1 .s1 with h := 0x25#8 }).lutContentOk = false := by decide +kernel

theorem test_delayBank_refused : ¬ { cfgT with delayBank := .a }.WellFormed :=
  fun h => by cases h.delayBank

theorem test_powf_refused : ¬ PowfOk fun _ _ => fZero :=
  fun h => absurd (h.at_zero fOne (by decide)) (by decide)

theorem test_dsp_refused : ¬ { cfgT with dspStep := fun _ _ _ _ r s => ⟨plusInf, r, s⟩ }.DspFinite :=
  fun h => absurd (h 0 ⟨decayLo, fOne, fZero, fZero⟩ fOne fOne fOne ⟨[]⟩
    (by intro j; cases j <;> decide +kernel) (by decide) (by decide) (by decide)).1 (by decide)

/-! ### Decoding: the words of 30_encoding R85, written `{rsv, ch, op}` -/

theorem test_decode_nop : decode 0b00_00_0000#8 = .ok .nop := by decide
theorem test_decode_rst : decode 0b00_00_0001#8 = .ok .rst := by decide
theorem test_decode_potsm0 : decode 0b00_00_0010#8 = .ok .potsm0 := by decide
theorem test_decode_potsm1 : decode 0b00_01_0010#8 = .ok .potsm1 := by decide
theorem test_decode_potsm2 : decode 0b00_10_0010#8 = .ok .potsm2 := by decide
theorem test_decode_cvsm1 : decode 0b00_01_0011#8 = .ok .cvsm1 := by decide
theorem test_decode_cvsm2 : decode 0b00_10_0011#8 = .ok .cvsm2 := by decide
theorem test_decode_tko0 : decode 0b00_00_0100#8 = .ok .tko0 := by decide
theorem test_decode_tko1 : decode 0b00_01_0100#8 = .ok .tko1 := by decide
theorem test_decode_tko2 : decode 0b00_10_0100#8 = .ok .tko2 := by decide
theorem test_decode_tapu : decode 0b00_00_0101#8 = .ok .tapu := by decide
theorem test_decode_btnu : decode 0b00_00_0110#8 = .ok .btnu := by decide
theorem test_decode_blk : decode 0b00_00_1000#8 = .ok .blk := by decide
theorem test_decode_smp : decode 0b00_00_1001#8 = .ok .smp := by decide

/-- R84: each way of being reserved, by its name. -/
theorem test_decode_reserved :
    decode 0x40#8 = .error .rsvNotZero ∧ decode 0x80#8 = .error .rsvNotZero ∧
    decode 0x07#8 = .error .opReserved ∧ decode 0x0A#8 = .error .opReserved ∧
    decode 0x0F#8 = .error .opReserved ∧ decode 0x11#8 = .error .channelNotTaken ∧
    decode 0x39#8 = .error .channelNotTaken ∧ decode 0x32#8 = .error .channelThree ∧
    decode 0x34#8 = .error .channelThree ∧ decode 0x03#8 = .error .cvsmZero := by decide

/-- R84: "14 of them legal", "242 reserved". -/
theorem test_decode_count :
    (List.range 256).countP (fun n => (decode (BitVec.ofNat 8 n)).toBool) = 14 := by decide +kernel

theorem test_decodeTableWord :
    decodeTableWord 8 0x23 = some .cvsm2 ∧ decodeTableWord 8 0x03 = none := by decide

/-! ### Number format: 00_scope R12 and the patterns of 95_test_vectors section 2 -/

/-- A decimal literal is the number nearest to it: 0.02, 0.015, 0.030, 1.2, 0.70, 0.98. -/
theorem test_literals :
    fdiv (fofNat 2) (fofNat 100) = potAlpha ∧ fdiv (fofNat 15) (fofNat 1000) = epsOn .decay ∧
    fdiv (fofNat 30) (fofNat 1000) = epsOff .tone ∧ fdiv (fofNat 12) (fofNat 10) = outLimit ∧
    fdiv (fofNat 70) (fofNat 100) = decayLo ∧ fdiv (fofNat 98) (fofNat 100) = decayHi ∧
    fofNat 5 = fFive ∧ fofNat 10 = fTen ∧ fofNat 1000 = fThousand ∧ fneg outLimit = outLimitNeg := by
  decide +kernel

/-- Ties go to even, subnormals are kept, zeros compare equal and an overflow is an infinity (R12). -/
theorem test_rounding :
    fadd 0x4B800000#32 fOne = 0x4B800000#32 ∧ fadd 0x4B800001#32 fOne = 0x4B800002#32 ∧
    fmul 0x00800000#32 half = 0x00400000#32 ∧ feq 0x80000000#32 fZero = true ∧
    fmul 0x7F7FFFFF#32 two = plusInf ∧ fsub fOne fOne = fZero := by decide +kernel

/-! ### One operation at a time -/

/-- NOP (R83). -/
theorem test_nop : exec .nop base = .next base := rfl

/-- RST (R270's example): afterwards `PUB[0]` reads `0x00000008`. -/
theorem test_rst :
    pubWord (resetRegisters cfgT { base with bank := .b, index := 3, level := .bank, preview := .b }) 0 =
      some 0x00000008#32 := by decide

/-- POTSM 0: V-POT-2, first step. -/
theorem test_potsm0 :
    (potSmooth .mix { base with potS := ⟨fOne, fZero, fZero⟩, portA := fZero }).potS.mix =
      0x3F7AE148#32 := by decide +kernel

/-- POTSM 1: V-POT-1, second step. -/
theorem test_potsm1 :
    (potSmooth .decay { base with potS := ⟨fZero, 0x3CA3D70A#32, fZero⟩, portA := fOne }).potS.decay =
      0x3D22339C#32 := by decide +kernel

/-- POTSM 2: V-POT-3, the reading 1.7 (`0x3FD9999A`) acts as 1.0. -/
theorem test_potsm2_clamp :
    (potSmooth .tone { base with portA := 0x3FD9999A#32 }).potS.tone = 0x3F028F5C#32 := by
  decide +kernel

/-- CVSM 1: V-CV-1, second row (rise). -/
theorem test_cvsm1_rise :
    (cvSmooth cfgT .decay { base with cvS := ⟨fOne, fZero⟩, portA := 0x40800000#32 }).cvS.decay =
      0x3FE00000#32 := by decide +kernel

/-- CVSM 1: V-CV-1, fourth row (fall). -/
theorem test_cvsm1_fall :
    (cvSmooth cfgT .decay { base with cvS := ⟨0x3F600000#32, fZero⟩, portA := 0xC1000000#32 }).cvS.decay =
      0xC0640000#32 := by decide +kernel

/-- CVSM 2: V-CV-1, third row, on the other channel; channel 1 stays. -/
theorem test_cvsm2 :
    (cvSmooth cfgT .tone { base with cvS := ⟨fOne, 0x3FE00000#32⟩, portA := fZero }).cvS =
      ⟨fOne, 0x3F600000#32⟩ := by decide +kernel

/-- `cvmap`: V-CV-2. -/
theorem test_cvmap :
    cvmap 0xC0E00000#32 = fZero ∧ cvmap fOne = 0x3F19999A#32 ∧ cvmap 0x40200000#32 = 0x3F400000#32 ∧
      cvmap 0x41100000#32 = fOne := by decide +kernel

/-- TKO 0: V-TKO-1, last line. -/
theorem test_tko0 :
    (takeMix { base with potS := ⟨0x3E99999A#32, fZero, fZero⟩ }).ctl.mix = 0x3E99999A#32 := by
  decide +kernel

/-- TKO 1: V-TKO-1, boundary 0.015 engages. -/
theorem test_tko1_engages :
    let t := takeCv .decay { base with potS := ⟨half, epsOn .decay, half⟩, cvS := ⟨0x40200000#32, fZero⟩ }
    t.cvMode = ⟨true, false⟩ ∧ t.ctl.decay = 0x3F400000#32 := by decide +kernel

/-- TKO 2: V-TKO-1, boundary 0.03 releases. -/
theorem test_tko2_releases :
    let t := takeCv .tone
      { base with cvMode := ⟨true, true⟩, potS := ⟨half, half, epsOff .tone⟩ }
    t.cvMode = ⟨true, false⟩ ∧ t.ctl.tone = epsOff .tone := by decide +kernel

/-- TAPU: V-TAP-1 step 4, an interval of 500 ms is accepted. -/
theorem test_tapu_accepts :
    let t := tapUpdate cfgT
      { base with bank := .b, hasEdge := true, lastTapTime := 1000, portT := 1500,
                  portA := 0x40A00000#32 }
    (t.gate, t.lastTapTime, t.armed, t.est) = (true, 1500#32, true, 0x46BB8000#32) := by decide +kernel

/-- TAPU: V-TAP-1 steps 9 and 10, elapsed 1800 keeps `armed` and 1801 clears it. -/
theorem test_tapu_expires :
    let s := { base with bank := .b, hasEdge := true, armed := true, lastTapTime := 1530 }
    (tapUpdate cfgT { s with portT := 3330 }).armed = true ∧
      (tapUpdate cfgT { s with portT := 3331 }).armed = false := by decide +kernel

/-- The button held since an accepted press at time 25, the raw level just back at 0 since `tc`. -/
def releasing (tc now : Time) : State :=
  { base with btnStable := true, btnTPress := 25, btnTChange := tc, portT := now, portL := false }

/-- BTNU: V-BTN-4, 799 ms is short and 800 ms long. -/
theorem test_btnu_duration :
    let t := btnUpdate cfgT (releasing 799 824)
    let u := btnUpdate cfgT (releasing 800 825)
    (t.index, t.fadeRemaining, t.pchg, t.level, t.tInteract) = (1#2, 4, some true, .patch, 824#32) ∧
      (u.index, u.fadeRemaining, u.pchg, u.level, u.tInteract) = (0#2, 0, some false, .bank, 825#32) := by
  decide +kernel

/-- LEVEL_BANK with the delay bank active and bank A previewed, the button held for 800 ms. -/
def leaving : State :=
  { base with bank := .b, index := 2, level := .bank, armed := true, btnRawPrev := true,
              btnStable := true, btnTPress := 25, portT := 825, portL := true }

/-- BTNU: V-BTN-6, first row. -/
theorem test_btnu_leaves :
    let t := btnUpdate cfgT leaving
    (t.pchg, t.bank, t.index, t.level, t.armed, t.fadeRemaining) =
      (some true, .a, 0#2, .patch, false, 4) := by decide +kernel

/-- BLK: V-SMP-4. -/
theorem test_blk :
    let t := latchBlock { base with bank := .b, index := 2, ctl := ⟨half, 0x3E800000#32, fOne⟩,
                                    armed := true, est := 0x46BB8000#32 }
    (t.aBank, t.aIndex, t.aCtl, t.aArmed, t.aEst) =
      (.b, 2#2, ⟨half, 0x3E800000#32, fOne⟩, true, 0x46BB8000#32) := by decide +kernel

/-- SMP: the worked example R189. -/
theorem test_smp_example :
    let t := sample cfgT { base with aCtl := ⟨half, fZero, fZero⟩, fadeRemaining := 2,
                                     portA := fOne, portB := 0xBF800000#32 }
    (t.hpX1, t.lpZ.left, t.outL, t.outR, t.fadeRemaining) =
      (⟨0x3F400000#32, 0xBF400000#32⟩, 0x3EC00000#32, some 0x3EC00000#32, some 0xBEC00000#32, 1) := by
  decide +kernel

/-- SMP: V-SMP-1, t = 0.5. -/
theorem test_smp_parameters :
    let s := { base with aCtl := ⟨fOne, half, half⟩ }
    natParams cfgT s = ⟨0x3F570A3E#32, 0x43C00001#32, fZero, fZero⟩ ∧
      (sample cfgT s).dl.s1 = 0x43C00001#32 := by decide +kernel

/-! ### The hypotheses of the statements can be met -/

def cmd (i : Instr) : Command := command i 0 half half false

theorem witness_step_runs_control :
    takeNext { base with controlQ := [cmd .tko1] } =
      some (.command .control (cmd .tko1), { base with turn := 1 }) ∧
    decode (cmd .tko1).cw = .ok .tko1 ∧ mayIssue .control .tko1 = true := ⟨rfl, rfl, rfl⟩

theorem witness_step_runs_audio :
    takeNext { base with audioQ := [cmd .smp] } =
      some (.command .audio (cmd .smp), { base with turn := 1 }) ∧
    decode (cmd .smp).cw = .ok .smp ∧ mayIssue .audio .smp = true := ⟨rfl, rfl, rfl⟩

theorem witness_step_runs_host :
    takeNext { base with hostQ := [.command (cmd .rst)] } =
      some (.command .host (cmd .rst), { base with turn := 1 }) ∧
    decode (cmd .rst).cw = .ok .rst ∧ mayIssue .host .rst = true := ⟨rfl, rfl, rfl⟩

/-- The three clauses of `SoleAgentIsServed`. -/
theorem witness_sole_agent :
    let s := { base with controlQ := [cmd .tapu] }
    let t := { base with audioQ := [cmd .blk] }
    let u := { base with hostQ := [.command (cmd .rst)] }
    (s.controlQ = cmd .tapu :: [] ∧ s.audioQ = [] ∧ s.hostQ = []) ∧
    (t.controlQ = [] ∧ t.audioQ = cmd .blk :: [] ∧ t.hostQ = []) ∧
    (u.controlQ = [] ∧ u.audioQ = [] ∧ u.hostQ = .command (cmd .rst) :: []) :=
  ⟨⟨rfl, rfl, rfl⟩, ⟨rfl, rfl, rfl⟩, ⟨rfl, rfl, rfl⟩⟩

theorem witness_some_presenter :
    presenting { base with controlQ := [cmd .tapu], audioQ := [cmd .blk] } ≠ [] := by decide

/-- The two clauses of `ReservedAndForeignRefused`. -/
theorem witness_reserved_and_foreign :
    (takeNext { base with controlQ := [⟨0x03#8, 0, fZero, fZero, false⟩] } =
        some (.command .control ⟨0x03#8, 0, fZero, fZero, false⟩, { base with turn := 1 }) ∧
      decode 0x03#8 = .error .cvsmZero) ∧
    (takeNext { base with controlQ := [cmd .blk] } =
        some (.command .control (cmd .blk), { base with turn := 1 }) ∧
      decode (cmd .blk).cw = .ok .blk ∧ mayIssue .control .blk = false) :=
  ⟨⟨rfl, rfl⟩, rfl, rfl, rfl⟩

theorem witness_idle : presenting base = [] := by decide

/-- `PublishedReads` at both sides of its boundary. -/
theorem witness_published_reads :
    takeNext { base with hostQ := [.readPub 5] } = some (.readPub 5, { base with turn := 1 }) ∧
    takeNext { base with hostQ := [.readPub 6] } = some (.readPub 6, { base with turn := 1 }) :=
  ⟨rfl, rfl⟩

/-- Finite operands: POTSM, CVSM, TAPU and SMP. -/
theorem witness_finite_operands : isFinite base.portA = true ∧ isFinite base.portB = true := by
  decide

/-- `TAPU` inside and outside the delay bank. -/
theorem witness_tapu_banks :
    { base with bank := .b }.bank = cfg.delayBank ∧ base.bank ≠ cfg.delayBank := by
  rw [show cfg.delayBank = .b from Config.machine.wellFormed.delayBank]
  exact ⟨rfl, by decide⟩

theorem base_potsInUnit : potsInUnit base := by intro ch; cases ch <;> decide

/-- A reading above the smoothed pot, one below it, and one equal to it. -/
theorem witness_pot_smoother :
    potsInUnit base ∧ isFinite fOne = true ∧
      fle (base.potS.get .decay) (clamp fOne fZero fOne) = true ∧
      fle (clamp fZero fZero fOne) (base.potS.get .decay) = true ∧
      clamp half fZero fOne = base.potS.get .decay :=
  ⟨base_potsInUnit, by decide, by decide, by decide, by decide⟩

theorem witness_step_keeps_pots :
    potsInUnit { base with controlQ := [cmd .potsm0] } ∧
      step { base with controlQ := [cmd .potsm0] } =
        .next (potSmooth .mix (onPorts (cmd .potsm0) { base with turn := 1 })) :=
  ⟨base_potsInUnit, rfl⟩

theorem witness_tko_numbers :
    potsInUnit base ∧ isNaN base.cvS.decay = false ∧ isNaN base.cvS.tone = false :=
  ⟨base_potsInUnit, by decide, by decide⟩

/-- Both directions of `CvModeChangesOnlyAtThresholds`, at the thresholds. -/
theorem witness_cv_mode_changes :
    let s := { base with potS := ⟨half, epsOn .decay, half⟩ }
    let u := { base with cvMode := ⟨true, false⟩, potS := ⟨half, epsOff .decay, half⟩ }
    (exec .tko1 s = .next (takeCv .decay s) ∧ s.cvMode.get .decay = false ∧
      (takeCv .decay s).cvMode.get .decay = true) ∧
    (exec .tko1 u = .next (takeCv .decay u) ∧ u.cvMode.get .decay = true ∧
      (takeCv .decay u).cvMode.get .decay = false) :=
  ⟨⟨rfl, rfl, by decide +kernel⟩, rfl, rfl, by decide +kernel⟩

theorem witness_leaving_delay_bank :
    exec .btnu leaving = .next (btnUpdate cfg leaving) ∧ leaving.bank = cfg.delayBank ∧
      (btnUpdate cfg leaving).bank ≠ cfg.delayBank := by
  rw [show cfg.delayBank = .b from Config.machine.wellFormed.delayBank]
  exact ⟨rfl, rfl, by decide⟩

/-- A row of `BtnuTransitionTable` each: no event, and the four combinations of level and event. -/
theorem witness_transition_rows :
    ((btnPoll base).2 = .none) ∧
    ((btnPoll { releasing 799 824 with level := .bank }).2 = .short) ∧
    ((btnPoll (releasing 799 824)).2 = .short ∧ (releasing 799 824).level = .patch) ∧
    ((btnPoll leaving).2 = .long ∧ leaving.level = .bank) ∧
    ((btnPoll (releasing 800 825)).2 = .long ∧ (releasing 800 825).level = .patch) := by
  decide +kernel

/-- The button held since a press accepted at time 25. -/
def held : State := { base with btnStable := true, btnRawPrev := true, btnTPress := 25 }

/-- A short press: released at 799, accepted at 824. -/
theorem witness_one_event_short :
    held.btnStable = true ∧ held.btnLongDone = false ∧
    (∀ r ∈ (btnRun [(100, true), (799, false), (824, false)] held).dropLast, r.2.btnStable = true) ∧
    ∃ r, (btnRun [(100, true), (799, false), (824, false)] held).getLast? = some r ∧
      r.2.btnStable = false :=
  ⟨rfl, rfl, by
    intro r hr
    simp only [btnRun, exec, execBtnu, List.dropLast] at hr
    fin_cases hr <;> rfl, _, rfl, rfl⟩

/-- A long press that fires at the poll at 825, then the release. -/
theorem witness_one_event_long :
    (∀ r ∈ (btnRun [(825, true), (900, false), (925, false)] held).dropLast, r.2.btnStable = true) ∧
    ∃ r, (btnRun [(825, true), (900, false), (925, false)] held).getLast? = some r ∧
      r.2.btnStable = false :=
  ⟨by
    intro r hr
    simp only [btnRun, exec, execBtnu, List.dropLast] at hr
    fin_cases hr <;> rfl, _, rfl, rfl⟩

/-- Both clauses of `OnlyEventsMoveTheSelector`. -/
theorem witness_selector_moves :
    (exec .btnu leaving = .next (btnUpdate cfg leaving) ∧
      (btnUpdate cfg leaving).bank ≠ leaving.bank ∧
      (btnUpdate cfg leaving).index ≠ leaving.index) ∧
    (exec .btnu (releasing 799 824) = .next (btnUpdate cfg (releasing 799 824)) ∧
      (btnUpdate cfg (releasing 799 824)).index ≠ (releasing 799 824).index) :=
  ⟨⟨rfl, by decide, by decide⟩, rfl, by decide⟩

/-- A step that counts nothing, and one that commits. -/
theorem witness_step_next :
    step base = .next (undriven base) ∧
      (let c := command .btnu 825 fZero fZero true
       let t := btnUpdate cfg (onPorts c { leaving with turn := 1 })
       step { leaving with controlQ := [c] } = .next t ∧ t.pchg = some true) := ⟨rfl, rfl, rfl⟩

theorem witness_ramps :
    ∀ x ∈ [(fOne, fZero), (half, fOne)], isFinite x.1 = true ∧ isFinite x.2 = true := by
  simp [show isFinite fOne = true by decide, show isFinite fZero = true by decide,
    show isFinite half = true by decide]

/-- Both counters just armed and enough samples for both ramps, and a sample that completes. -/
theorem witness_ramps_armed :
    let s := { base with fadeRemaining := cfg.fadeLen, warmupRemaining := cfg.warmupLen }
    let samples := List.replicate cfg.warmupLen (fOne, fZero)
    (∀ x ∈ samples, isFinite x.1 = true ∧ isFinite x.2 = true) ∧
      s.fadeRemaining = cfg.fadeLen ∧ s.warmupRemaining = cfg.warmupLen ∧
      cfg.fadeLen ≤ samples.length ∧ cfg.warmupLen ≤ samples.length ∧
      smpRun [(fOne, fZero)] s = .next (sample cfg { s with portA := fOne, portB := fZero }) := by
  refine ⟨fun x hx => ?_, rfl, rfl, ?_, by simp, rfl⟩
  · rw [List.eq_of_mem_replicate hx]
    decide
  · have h := Config.machine.wellFormed.lengths
    simp only [Params.lengthsOk, decide_eq_true_eq] at h
    simpa using h.2.2.1.le

/-- Counters at their maxima and at 0. -/
theorem witness_gains :
    let s := { base with fadeRemaining := cfg.fadeLen, warmupRemaining := cfg.warmupLen }
    base.fadeRemaining ≤ s.fadeRemaining ∧ s.fadeRemaining ≤ cfg.fadeLen ∧
      base.warmupRemaining ≤ s.warmupRemaining ∧ s.warmupRemaining ≤ cfg.warmupLen :=
  ⟨Nat.zero_le _, le_rfl, Nat.zero_le _, le_rfl⟩

/-- Patch 0 has a slot in use in every well-formed configuration (R193 a). -/
theorem witness_valid_slot :
    ∃ j, descValid (cfg.lut (patchNo base.aBank base.aIndex) j) = true := by
  have h := Config.machine.wellFormed.lutContent
  simp only [Params.lutContentOk, List.all_eq_true] at h
  have h0 := h 0 (by decide)
  rw [if_pos (by decide)] at h0
  simp only [Params.hasSlot, List.any_eq_true, isDecayParam, Bool.and_eq_true] at h0
  obtain ⟨⟨j, -, hj⟩, -⟩ := h0
  exact ⟨j, hj.1.1.1.1.1⟩

theorem witness_mix_ends : isFinite fOne = true ∧ isFinite (fmul half half) = true := by
  decide +kernel

theorem witness_maps :
    isFinite fOne = true ∧ isFinite (fsub two fOne) = true ∧ isPosFinite (fdiv two fOne) = true := by
  decide +kernel

/-- Refused and not refused: both sides of `RefusedOnlyOnNonFinite`. -/
theorem witness_refused_sides :
    isFinite { base with portA := plusInf }.portA = false ∧
      isFinite { base with portB := aNaN }.portB = false ∧ isFinite base.portA = true := by decide

theorem witness_legal_program :
    programLegal
      { base with controlQ := tick 0 fOne half half fZero fZero fZero false
                  audioQ := block [(half, half)]
                  hostQ := [.command (cmd .rst), .readPub 5] } = true := by decide +kernel

theorem witness_audio_schedule :
    AudioSchedule cfg (block (List.replicate cfg.blockSize (half, half)) ++ []) ∧
      ∀ m ∈ block (List.replicate cfg.blockSize (half, half)) ++ [],
        isFinite m.a = true ∧ isFinite m.b = true := by
  refine ⟨.block _ (by simp) .nil, ?_⟩
  intro m hm
  simp only [block, List.append_nil, List.mem_cons, List.mem_map, List.mem_replicate] at hm
  rcases hm with rfl | ⟨x, ⟨-, rfl⟩, rfl⟩ <;> decide

theorem witness_control_schedule :
    ControlSchedule none
        (tick 0xFFFFFFF0#32 half half half fZero fZero fZero false ++
          (tick 5#32 half half half fZero fZero fZero true ++ [])) ∧
      ∀ m ∈ tick 0xFFFFFFF0#32 half half half fZero fZero fZero false ++
          (tick 5#32 half half half fZero fZero fZero true ++ []),
        isFinite m.a = true ∧ isFinite m.b = true :=
  ⟨.tick none _ _ _ _ _ _ _ _ nofun
    (.tick _ _ _ _ _ _ _ _ _ (fun u hu => by cases hu; decide) (.nil _)), by decide +kernel⟩

/-- R98, R285: equal times, a later time and a wrap follow; a time that runs backwards does not. -/
theorem test_timeFollows :
    timeFollows 1000 1000 = true ∧ timeFollows 0 0xFFFFFFFF = true ∧ timeFollows 0xFFFFFFFF 0 = true ∧
      timeFollows 1000 999 = false ∧ timeFollows 1000 500 = false := by decide

/-- A control sequence whose time runs backwards is not well formed (R98, U12). -/
theorem test_backwards_refused :
    ¬ ControlSchedule none
        (tick 1000 half half half fZero fZero fZero false ++
          (tick 500 half half half fZero fZero fZero false ++ [])) := fun h =>
  absurd ((controlSchedule_tick (controlSchedule_tick h).2).1 _ rfl) (by decide)

/-- An operation of each agent answers a next state. -/
theorem witness_exec_next :
    exec .tko1 base = .next (takeCv .decay base) ∧ exec .blk base = .next (latchBlock base) ∧
      exec .smp base = .next (sample cfg base) := ⟨rfl, rfl, rfl⟩

/-- Two states that differ in the control domain only. -/
theorem witness_smp_domain :
    let t := { base with bank := .b, ctl := ⟨fOne, fOne, fOne⟩, armed := true }
    audioRegs base = audioRegs t ∧ sharedRegs base = sharedRegs t ∧ base.portA = t.portA ∧
      base.portB = t.portB ∧ exec .smp base = .next (sample cfg base) := ⟨rfl, rfl, rfl, rfl, rfl⟩

/-- Two states that differ in the audio domain only. -/
theorem witness_control_domain :
    let t := { base with aIndex := 3, fadeRemaining := 2, lpZ := ⟨fOne, fOne⟩ }
    mayIssue .control .tko1 = true ∧ controlRegs base = controlRegs t ∧
      inputPorts base = inputPorts t ∧ base.pchg = t.pchg ∧
      exec .tko1 base = .next (takeCv .decay base) := ⟨rfl, rfl, rfl, rfl, rfl⟩

/-- A state in the delay bank with the estimate in force meets the invariant, and steps. -/
theorem witness_invariant :
    let s := { base with bank := .b, preview := .b, hasEdge := true, armed := true,
                         est := msToSamples cfg (fofNat 500), controlQ := [cmd .tko0] }
    s.Inv ∧ step s = .next (takeMix (onPorts (cmd .tko0) { s with controlQ := [], turn := 1 })) := by
  refine ⟨⟨Nat.zero_le _, Nat.zero_le _, fun _ => rfl, fun _ => ?_, fun _ => rfl,
    fun _ => ⟨500, by decide, rfl⟩, nofun, nofun⟩, rfl⟩
  exact Config.machine.wellFormed.delayBank.symm

/-- The launch state runs a word that the host places with `withFetchWord`. -/
theorem test_withFetchWord :
    step (State.reset.withFetchWord 8 0x04) =
      exec .tko0 (onPorts ⟨0x04#8, 0, fZero, fZero, false⟩ { State.reset with turn := 1 }) := rfl

end Sys2Proof.Tests
end

/-! PROOFS of the family `00_scope`: which agent is served, the pots at reset, and which operations refuse
a non-finite operand. -/

namespace Sys2Proof.Machine

/-! ### Taking the item of an agent that presents alone -/

/-- An agent that presents alone is served whatever the free value of R68 says. -/
theorem takeNext_of_presenting_singleton {g : Agent} {s : State} (h : presenting s = [g]) :
    takeNext s = takeFrom g s := by
  have hg : granted s = some g := by unfold granted; rw [h]
  simp [takeNext, hg]

theorem takeFrom_control_of_cons {s : State} {m : Command} {q : List Command}
    (h : s.controlQ = m :: q) :
    takeFrom .control s =
      some (.command .control m, { s with controlQ := q, turn := s.turn + 1 }) := by
  simp [takeFrom, h]

theorem takeFrom_audio_of_cons {s : State} {m : Command} {q : List Command}
    (h : s.audioQ = m :: q) :
    takeFrom .audio s = some (.command .audio m, { s with audioQ := q, turn := s.turn + 1 }) := by
  simp [takeFrom, h]

theorem takeFrom_host_of_command_cons {s : State} {m : Command} {q : List HostRequest}
    (h : s.hostQ = .command m :: q) :
    takeFrom .host s = some (.command .host m, { s with hostQ := q, turn := s.turn + 1 }) := by
  simp [takeFrom, h]

/-- Settles O4: the other queues being empty, the listing of the presenting agents is the one agent. -/
theorem soleAgentIsServed : Obligations.SoleAgentIsServed := by
  intro s m q
  refine ⟨fun hc ha hh => ?control, fun hc ha hh => ?audio, fun h hc ha hh => ?host⟩
  case control =>
    have hp : presenting s = [.control] := by simp [presenting, hc, ha, hh]
    rw [takeNext_of_presenting_singleton hp, takeFrom_control_of_cons hc]
  case audio =>
    have hp : presenting s = [.audio] := by simp [presenting, hc, ha, hh]
    rw [takeNext_of_presenting_singleton hp, takeFrom_audio_of_cons ha]
  case host =>
    have hp : presenting s = [.host] := by simp [presenting, hc, ha, hh]
    rw [takeNext_of_presenting_singleton hp, takeFrom_host_of_command_cons hh]

/-! ### The pots at reset -/

/-- The reset seeds of the pots are numbers in [0,1] (R8). -/
theorem initPot_inUnit {c : Params} (h : c.WellFormed) (ch : Chan) :
    inUnit (c.initPot.get ch) = true := by
  have hs := h.seeds
  simp only [Params.seedsOk, Bool.and_eq_true] at hs
  obtain ⟨⟨⟨⟨hmix, hdecay⟩, htone⟩, -⟩, -⟩ := hs
  cases ch with
  | mix => exact hmix
  | decay => exact hdecay
  | tone => exact htone

/-- Settles O22: at reset the smoothed pots are their seeds (R36). -/
theorem resetPotsInUnit : Obligations.ResetPotsInUnit :=
  initPot_inUnit Config.machine.wellFormed

/-! ### Which operations refuse -/

/-- An operation on port `A` refuses exactly a non-finite operand (R13). -/
theorem withFiniteA_eq_refused {s t : State} :
    withFiniteA s t = .refused .nonFiniteOperand ↔ isFinite s.portA = false := by
  unfold withFiniteA
  split <;> simp_all

/-- An operation on ports `A` and `B` refuses exactly when one of the two operands is not finite (R13). -/
theorem withFiniteAB_eq_refused {s t : State} :
    withFiniteAB s t = .refused .nonFiniteOperand ↔
      isFinite s.portA = false ∨ isFinite s.portB = false := by
  unfold withFiniteAB
  cases isFinite s.portA <;> cases isFinite s.portB <;> simp

/-- The operations that read port `A` (R82). -/
theorem readsA_iff (i : Instr) :
    readsA i = true ↔
      i = .potsm0 ∨ i = .potsm1 ∨ i = .potsm2 ∨ i = .cvsm1 ∨ i = .cvsm2 ∨ i = .tapu ∨ i = .smp := by
  cases i <;> decide

/-- `SMP` alone reads port `B` (R82). -/
theorem readsB_iff (i : Instr) : readsB i = true ↔ i = .smp := by
  cases i <;> decide

/-- Every F port the operation reads holds a finite number (R13): `operandsFinite` of what is on the
ports. -/
def portsFinite (i : Instr) (s : State) : Bool :=
  (!readsA i || isFinite s.portA) && (!readsB i || isFinite s.portB)

@[simp] theorem portsFinite_onPorts (i : Instr) (m : Command) (s : State) :
    portsFinite i (onPorts m s) = operandsFinite i m := rfl

theorem portsFinite_eq_false_iff (i : Instr) (s : State) :
    portsFinite i s = false ↔
      (isFinite s.portA = false ∧ readsA i = true) ∨
        (isFinite s.portB = false ∧ readsB i = true) := by
  simp only [portsFinite, Bool.and_eq_false_iff, Bool.or_eq_false_iff, Bool.not_eq_false', and_comm]

/-- What an operation can answer, by the F ports it reads (R82): without one it completes, and otherwise
the finiteness check of R13 decides. -/
theorem exec_cases_of_ports (i : Instr) (s : State) :
    (readsA i = false ∧ readsB i = false ∧ ∃ t, exec i s = .next t) ∨
      (readsA i = true ∧ readsB i = false ∧ ∃ t, exec i s = withFiniteA s t) ∨
      (readsA i = true ∧ readsB i = true ∧ ∃ t, exec i s = withFiniteAB s t) := by
  cases i with
  | nop | rst | tko0 | tko1 | tko2 | btnu | blk => exact .inl ⟨rfl, rfl, _, rfl⟩
  | potsm0 | potsm1 | potsm2 | cvsm1 | cvsm2 | tapu => exact .inr (.inl ⟨rfl, rfl, _, rfl⟩)
  | smp => exact .inr (.inr ⟨rfl, rfl, _, rfl⟩)

/-- An operation that reads a non-finite operand is refused (R13). -/
theorem exec_refused_of_not_portsFinite {i : Instr} {s : State} (h : portsFinite i s = false) :
    exec i s = .refused .nonFiniteOperand := by
  obtain ⟨hA, hB, -⟩ | ⟨hA, hB, t, ht⟩ | ⟨hA, hB, t, ht⟩ := exec_cases_of_ports i s
  · simp [portsFinite, hA, hB] at h
  · rw [ht, withFiniteA_eq_refused]
    simpa [portsFinite, hA, hB] using h
  · rw [ht, withFiniteAB_eq_refused]
    simpa [portsFinite_eq_false_iff, hA, hB] using h

/-- An operation whose F operands are finite completes (R240). -/
theorem exec_completes_of_portsFinite {i : Instr} {s : State} (h : portsFinite i s = true) :
    ∃ t, exec i s = .next t := by
  obtain ⟨-, -, hnext⟩ | ⟨hA, hB, t, ht⟩ | ⟨hA, hB, t, ht⟩ := exec_cases_of_ports i s
  · exact hnext
  · have hfin : isFinite s.portA = true := by simpa [portsFinite, hA, hB] using h
    exact ⟨t, ht.trans (withFiniteA_eq_next.2 ⟨hfin, rfl⟩)⟩
  · have hfin : isFinite s.portA = true ∧ isFinite s.portB = true := by
      simpa [portsFinite, hA, hB] using h
    exact ⟨t, ht.trans (withFiniteAB_eq_next.2 ⟨hfin, rfl⟩)⟩

/-- Settles O43: the operations the statement lists are those that read port `A` and port `B`. -/
theorem refusedOnlyOnNonFinite : Obligations.RefusedOnlyOnNonFinite := by
  intro i s
  dsimp only
  rw [← readsA_iff, ← readsB_iff, ← portsFinite_eq_false_iff, Bool.not_eq_false]
  exact ⟨exec_refused_of_not_portsFinite, exec_completes_of_portsFinite⟩

end Sys2Proof.Machine

/-! PROOFS of the family `10_state`: what a completed operation leaves in the registers, the
invariants every step keeps, the published words, and the reset state. -/

namespace Sys2Proof.Machine

/-! ### The next state of an operation, and of a step -/

/-- The state an operation leaves when it completes. -/
def effect : Instr → State → State
  | .nop, s => s
  | .rst, s => resetRegisters cfg s
  | .potsm0, s => potSmooth .mix s
  | .potsm1, s => potSmooth .decay s
  | .potsm2, s => potSmooth .tone s
  | .cvsm1, s => cvSmooth cfg .decay s
  | .cvsm2, s => cvSmooth cfg .tone s
  | .tko0, s => takeMix s
  | .tko1, s => takeCv .decay s
  | .tko2, s => takeCv .tone s
  | .tapu, s => tapUpdate cfg s
  | .btnu, s => btnUpdate cfg s
  | .blk, s => latchBlock s
  | .smp, s => sample cfg s

/-- An operation completes exactly when the F ports it reads are finite (R13), and then leaves its
effect. -/
theorem exec_eq_next {i : Instr} {s t : State} :
    exec i s = .next t ↔ portsFinite i s = true ∧ effect i s = t := by
  cases i with
  | nop | rst | tko0 | tko1 | tko2 | btnu | blk =>
    rw [show portsFinite _ s = true from rfl]
    exact ⟨fun h => ⟨rfl, Host.Outcome.next.inj h⟩, fun h => congrArg _ h.2⟩
  | potsm0 | potsm1 | potsm2 | cvsm1 | cvsm2 | tapu =>
    exact withFiniteA_eq_next.trans (by simp [portsFinite, readsA, readsB, effect])
  | smp => exact withFiniteAB_eq_next.trans (by simp [portsFinite, readsA, readsB, effect])

/-- All registers of R22 to R31: the state without ports, results and schedule. -/
def registers (s : State) : ControlRegs × AudioRegs × SharedRegs :=
  (controlRegs s, audioRegs s, sharedRegs s)

/-- To the registers every step is one operation: taking an item, putting it on the ports and
showing a published word write none of them. -/
theorem step_eq_next {s t : State} (h : step s = .next t) :
    ∃ i s', registers s' = registers s ∧ exec i s' = .next t := by
  obtain ⟨-, rfl⟩ | ⟨g, m, s', i, htake, -, -, hexec⟩ | ⟨n, s', w, htake, -, rfl⟩ := step_cases h
  · exact ⟨.nop, undriven s, rfl, rfl⟩
  · obtain ⟨hc, ha, hs, -⟩ := takeNext_spec htake
    exact ⟨i, onPorts m s', congrArg₂ _ hc (congrArg₂ _ ha hs), hexec⟩
  · obtain ⟨hc, ha, hs, -⟩ := takeNext_spec htake
    exact ⟨.nop, { undriven s' with pubData := some w }, congrArg₂ _ hc (congrArg₂ _ ha hs), rfl⟩

/-! ### The pot smoother -/

theorem RoundsTo.neg {r : F} {v : Int} {d : Nat} (h : RoundsTo r v d) :
    RoundsTo (fneg r) (-v) d where
  isNaN := by simpa [Machine.isNaN] using h.isNaN
  le z hz hv := by
    have := h.ge (fneg z) (by simpa [Machine.isNaN] using hz) (by rw [units_fneg]; linarith)
    rw [units_fneg] at *
    omega
  ge z hz hv := by
    have := h.le (fneg z) (by simpa [Machine.isNaN] using hz) (by rw [units_fneg]; linarith)
    rw [units_fneg] at *
    omega

/-- Every power of two up to 2^53 is a number; in units of 2^-149, up to 2^202. -/
theorem exists_units_two_pow {k : Nat} (hk : k ≤ 202) :
    ∃ z : F, isFinite z = true ∧ units z = 2 ^ k := by
  obtain ⟨b, hval, hle⟩ := exists_mag k 1 (by omega)
  have hb : b < infMag := by unfold infMag; omega
  have hb31 : b < 2 ^ 31 := lt_trans hb (by decide)
  refine ⟨pack false b, ?_, ?_⟩
  · rwa [isFinite_iff, fmag_pack _ hb31]
  · simp [units, absUnits, isNeg_pack _ hb31, fmag_pack _ hb31, hval]

/-- Of a nonnegative difference `v` of at most 1.0, the share by a coefficient `a` in [0, 1/2] does
not exceed `v`, though both the difference `d` and the product `q` are rounded. The power of two
below `v` bounds the product: a rounded difference stays below the next power of two, and half of
that is left. -/
theorem RoundsTo.share_le {a d q : F} {v : Int} (hd : RoundsTo d v 1)
    (hq : RoundsTo q (units a * units d) oneUnits) (ha : 0 ≤ units a) (ha2 : 2 * units a ≤ oneUnits)
    (hv : 0 ≤ v) (hv1 : v ≤ oneUnits) : 0 ≤ units q ∧ units q ≤ v := by
  have hzero := isNaN_of_isFinite isFinite_fZero
  have hd0 : 0 ≤ units d := by
    simpa [units_fZero] using hd.ge fZero hzero (by simpa [units_fZero] using hv)
  have hq0 : 0 ≤ units q := by
    simpa [units_fZero] using
      hq.ge fZero hzero (by simpa [units_fZero] using Int.mul_nonneg ha hd0)
  refine ⟨hq0, ?_⟩
  obtain ⟨n, rfl⟩ := Int.eq_ofNat_of_zero_le hv
  rcases Nat.eq_zero_or_pos n with rfl | hn
  · have hd' : units d ≤ 0 := by
      simpa [units_fZero] using hd.le fZero hzero (by simp [units_fZero])
    have hdz : units d = 0 := le_antisymm hd' hd0
    simpa [units_fZero] using hq.le fZero hzero (by simp [units_fZero, hdz])
  · have hk : Nat.log2 n ≤ 149 := by
      have : n < 2 ^ 150 := by unfold oneUnits at hv1; omega
      exact Nat.lt_succ_iff.1 ((Nat.log2_lt hn.ne').2 this)
    obtain ⟨z, hz, hzu⟩ := exists_units_two_pow (k := Nat.log2 n) (by omega)
    obtain ⟨y, hy, hyu⟩ := exists_units_two_pow (k := Nat.log2 n + 1) (by omega)
    have hlow : (2 : Int) ^ Nat.log2 n ≤ n := by exact_mod_cast Nat.log2_self_le hn.ne'
    have hhigh : (n : Int) < 2 ^ (Nat.log2 n + 1) := by exact_mod_cast Nat.lt_log2_self
    have hdy : units d ≤ 2 * 2 ^ Nat.log2 n := by
      have := hd.le y (isNaN_of_isFinite hy) (by rw [hyu]; simpa using hhigh.le)
      rwa [hyu, pow_succ, mul_comm] at this
    have hqz : units q ≤ units z := by
      refine hq.le z (isNaN_of_isFinite hz) ?_
      rw [hzu]
      calc units a * units d
          ≤ units a * (2 * 2 ^ Nat.log2 n) := Int.mul_le_mul_of_nonneg_left hdy ha
        _ = 2 ^ Nat.log2 n * (2 * units a) := by ring
        _ ≤ 2 ^ Nat.log2 n * oneUnits := Int.mul_le_mul_of_nonneg_left ha2 (by positivity)
    exact le_trans (hzu ▸ hqz) hlow

theorem inUnit_iff {x : F} :
    inUnit x = true ↔ isFinite x = true ∧ 0 ≤ units x ∧ units x ≤ oneUnits := by
  have h0 := isNaN_of_isFinite isFinite_fZero
  have h1 := isNaN_of_isFinite isFinite_fOne
  constructor
  · intro h
    obtain ⟨hlo, hhi⟩ := Bool.and_eq_true_iff.1 h
    have hlo := units_le_of_fle hlo
    have hhi := units_le_of_fle hhi
    refine ⟨isFinite_of_between isFinite_fZero isFinite_fOne hlo hhi, ?_, ?_⟩
    · rwa [units_fZero] at hlo
    · rwa [units_fOne] at hhi
  · rintro ⟨hx, hlo, hhi⟩
    have hx := isNaN_of_isFinite hx
    refine Bool.and_eq_true_iff.2 ⟨(fle_iff h0 hx).2 ?_, (fle_iff hx h1).2 ?_⟩
    · rwa [units_fZero]
    · rwa [units_fOne]

theorem potAlpha_bounds : isFinite potAlpha = true ∧ 0 ≤ units potAlpha ∧
    2 * units potAlpha ≤ oneUnits := by
  decide +kernel

theorem isFinite_of_units_between {x : F} (hlo : -oneUnits ≤ units x) (hhi : units x ≤ oneUnits) :
    isFinite x = true := by
  have hneg : isFinite (fneg fOne) = true := by rw [isFinite_fneg, isFinite_fOne]
  refine isFinite_of_between hneg isFinite_fOne ?_ ?_
  · rwa [units_fneg, units_fOne]
  · rwa [units_fOne]

/-- A difference of two numbers of [0,1] is rounded to a finite number. -/
theorem isFinite_fsub_of_inUnit {p x : F} (hp : inUnit p = true) (hx : inUnit x = true) :
    isFinite (fsub x p) = true := by
  obtain ⟨hpf, hp0, hp1⟩ := inUnit_iff.1 hp
  obtain ⟨hxf, hx0, hx1⟩ := inUnit_iff.1 hx
  have hd := fsub_roundsTo hxf hpf
  have hone := isNaN_of_isFinite isFinite_fOne
  have hlo := hd.ge (fneg fOne) (by simpa [isNaN] using hone)
    (by rw [units_fneg, units_fOne]; omega)
  have hhi := hd.le fOne hone (by rw [units_fOne]; omega)
  rw [units_fneg] at hlo
  rw [units_fOne] at hlo hhi
  exact isFinite_of_units_between hlo hhi

/-- What the pot smoother adds, as rounded, goes toward the target and not beyond it. -/
theorem potAlpha_share_between {p x : F} (hp : inUnit p = true) (hx : inUnit x = true) :
    (units p ≤ units x → 0 ≤ units (fmul potAlpha (fsub x p)) ∧
      units (fmul potAlpha (fsub x p)) ≤ units x - units p) ∧
    (units x ≤ units p → units x - units p ≤ units (fmul potAlpha (fsub x p)) ∧
      units (fmul potAlpha (fsub x p)) ≤ 0) := by
  obtain ⟨hpf, hp0, hp1⟩ := inUnit_iff.1 hp
  obtain ⟨hxf, hx0, hx1⟩ := inUnit_iff.1 hx
  obtain ⟨haf, ha0, ha2⟩ := potAlpha_bounds
  have hd := fsub_roundsTo hxf hpf
  have hq := fmul_roundsTo haf (isFinite_fsub_of_inUnit hp hx)
  constructor
  · intro hle
    exact hd.share_le hq ha0 ha2 (by omega) (by omega)
  · intro hle
    have hq' : RoundsTo (fneg (fmul potAlpha (fsub x p)))
        (units potAlpha * units (fneg (fsub x p))) oneUnits := by
      rw [units_fneg, Int.mul_neg]
      exact hq.neg
    obtain ⟨h0, hv⟩ := hd.neg.share_le hq' ha0 ha2 (by omega) (by omega)
    rw [units_fneg] at h0 hv
    omega

/-- One step of the pot smoother moves toward its target and never overshoots it (R103). -/
theorem onePole_potAlpha_between {p x : F} (hp : inUnit p = true) (hx : inUnit x = true) :
    (fle p x = true →
      fle p (onePole p potAlpha x) = true ∧ fle (onePole p potAlpha x) x = true) ∧
    (fle x p = true →
      fle x (onePole p potAlpha x) = true ∧ fle (onePole p potAlpha x) p = true) := by
  obtain ⟨hpf, hp0, hp1⟩ := inUnit_iff.1 hp
  obtain ⟨hxf, hx0, hx1⟩ := inUnit_iff.1 hx
  obtain ⟨hup, hdown⟩ := potAlpha_share_between hp hx
  have hqf : isFinite (fmul potAlpha (fsub x p)) = true :=
    isFinite_of_units_between (by omega) (by omega)
  have hsum := fadd_roundsTo hpf hqf
  have hpn := isNaN_of_isFinite hpf
  have hxn := isNaN_of_isFinite hxf
  constructor
  · intro hle
    obtain ⟨h0, hv⟩ := hup (units_le_of_fle hle)
    exact ⟨hsum.fge hpn (by omega), hsum.fle hxn (by omega)⟩
  · intro hle
    obtain ⟨hv, h0⟩ := hdown (units_le_of_fle hle)
    exact ⟨hsum.fge hxn (by omega), hsum.fle hpn (by omega)⟩

theorem inUnit_onePole_potAlpha {p x : F} (hp : inUnit p = true) (hx : inUnit x = true) :
    inUnit (onePole p potAlpha x) = true := by
  obtain ⟨hup, hdown⟩ := onePole_potAlpha_between hp hx
  obtain ⟨hp0, hp1⟩ := Bool.and_eq_true_iff.1 hp
  obtain ⟨hx0, hx1⟩ := Bool.and_eq_true_iff.1 hx
  have hpn := (fle_isNaN hp0).2
  have hxn := (fle_isNaN hx0).2
  rcases le_total (units p) (units x) with hle | hle
  · obtain ⟨hlo, hhi⟩ := hup ((fle_iff hpn hxn).2 hle)
    exact Bool.and_eq_true_iff.2 ⟨fle_trans hp0 hlo, fle_trans hhi hx1⟩
  · obtain ⟨hlo, hhi⟩ := hdown ((fle_iff hxn hpn).2 hle)
    exact Bool.and_eq_true_iff.2 ⟨fle_trans hx0 hlo, fle_trans hhi hp1⟩

/-- The clamped reading is a number of [0,1] (R101). -/
theorem inUnit_clamp {x : F} (hx : isFinite x = true) : inUnit (clamp x fZero fOne) = true :=
  Bool.and_eq_true_iff.2 (clamp_inRange (by decide) (isNaN_of_isFinite hx))

/-- `POTSM` keeps every pot value in [0,1] (R102 c). -/
theorem potsInUnit_potSmooth {s : State} (h : potsInUnit s) (hA : isFinite s.portA = true)
    (ch : Chan) : potsInUnit (potSmooth ch s) := by
  intro ch'
  rw [potSmooth_potS, perChan_get_set]
  split
  · exact inUnit_onePole_potAlpha (h ch) (inUnit_clamp hA)
  · exact h ch'

theorem potsInUnit_congr {s t : State} (h : potsInUnit s) (hpot : t.potS = s.potS) :
    potsInUnit t := fun ch => hpot ▸ h ch

/-- Every operation keeps every pot value in [0,1]: `POTSM` by smoothing, `RST` by the seeds, and
the others write none. -/
theorem potsInUnit_exec {i : Instr} {s t : State} (h : potsInUnit s) (hexec : exec i s = .next t) :
    potsInUnit t := by
  obtain ⟨hfin, rfl⟩ := exec_eq_next.1 hexec
  cases i with
  | potsm0 | potsm1 | potsm2 =>
    exact potsInUnit_potSmooth h (by simpa [portsFinite, readsA, readsB] using hfin) _
  | rst => exact initPot_inUnit Config.machine.wellFormed
  | nop | cvsm1 | cvsm2 | tko0 | tko1 | tko2 | tapu | btnu | blk | smp =>
    exact potsInUnit_congr h (by simp [effect])

/-- Settles O21: the step is one operation to the registers. -/
theorem stepKeepsPotsInUnit : Obligations.StepKeepsPotsInUnit := by
  intro s t h hstep
  obtain ⟨i, s', hregs, hexec⟩ := step_eq_next hstep
  have hpot : s'.potS = s.potS := congrArg (ControlRegs.potS ·.1) hregs
  exact potsInUnit_exec (potsInUnit_congr h hpot) hexec

/-! ### The invariant of selector, estimator, counters and snapshot -/

/-- The registers of which `State.Inv` speaks. -/
structure InvRegs where
  fadeRemaining : Nat
  warmupRemaining : Nat
  level : Level
  bank : Bank
  preview : Bank
  hasEdge : Bool
  armed : Bool
  est : F
  aBank : Bank
  aArmed : Bool
  aEst : F

def invRegs (s : State) : InvRegs :=
  ⟨s.fadeRemaining, s.warmupRemaining, s.level, s.bank, s.preview, s.hasEdge, s.armed, s.est,
    s.aBank, s.aArmed, s.aEst⟩

theorem invRegs_congr {s t : State} (h : registers t = registers s) : invRegs t = invRegs s := by
  simp only [registers, controlRegs, audioRegs, sharedRegs, Prod.mk.injEq, ControlRegs.mk.injEq,
    AudioRegs.mk.injEq, SharedRegs.mk.injEq] at h
  simp only [invRegs, h]

theorem State.Inv.congr {s t : State} (h : s.Inv) (e : invRegs t = invRegs s) : t.Inv := by
  simp only [invRegs, InvRegs.mk.injEq] at e
  obtain ⟨hfade, hwarm, hlevel, hbank, hpreview, hedge, harmed, hest, habank, haarmed, haest⟩ := e
  constructor
  · simpa [hfade] using h.fade_le
  · simpa [hwarm] using h.warmup_le
  · simpa [hlevel, hpreview, hbank] using h.preview_eq
  · simpa [harmed, hbank] using h.armed_bank
  · simpa [harmed, hedge] using h.armed_edge
  · simpa [harmed, hest] using h.armed_est
  · simpa [haarmed, habank] using h.snapshot_bank
  · simpa [haarmed, haest] using h.snapshot_est

/-- After `RST` the counters are 0, the level is LEVEL_PATCH with equal banks, and nothing is
armed. -/
theorem inv_resetRegisters (s : State) : (resetRegisters cfg s).Inv where
  fade_le := Nat.zero_le _
  warmup_le := Nat.zero_le _
  preview_eq _ := rfl
  armed_bank := nofun
  armed_edge := nofun
  armed_est := nofun
  snapshot_bank := nofun
  snapshot_est := nofun

/-! #### The tap estimator -/

/-- A rising edge takes the interval since the edge on record as the estimate, or only records the
edge (R136). -/
theorem tapRise_cases (c : Params) (s : State) :
    (intervalAccepted (elapsed s.portT s.lastTapTime) = true ∧
      tapRise c s = { s with
        gate := true, hasEdge := true, lastTapTime := s.portT, armed := true
        est := msToSamples c (fofNat (elapsed s.portT s.lastTapTime)) }) ∨
    tapRise c s = { s with gate := true, hasEdge := true, lastTapTime := s.portT } := by
  unfold tapRise
  dsimp only
  split
  · rename_i hacc
    exact .inl ⟨(Bool.and_eq_true_iff.1 hacc).2, rfl⟩
  · exact .inr rfl

theorem State.Inv.tapRise {s : State} (h : s.Inv) (hbank : s.bank = cfg.delayBank) :
    (tapRise cfg s).Inv := by
  obtain ⟨hacc, e⟩ | e := tapRise_cases cfg s <;> rw [e]
  · exact { h with
      armed_bank _ := hbank
      armed_edge _ := rfl
      armed_est _ := ⟨_, hacc, rfl⟩ }
  · exact { h with armed_edge _ := rfl }

theorem State.Inv.tapEdge {s : State} (h : s.Inv) (hbank : s.bank = cfg.delayBank) :
    (tapEdge cfg s).Inv := by
  obtain ⟨-, -, e⟩ | ⟨-, -, e⟩ | e := tapEdge_cases cfg s <;> rw [e]
  · exact h.tapRise hbank
  · exact h.congr rfl
  · exact h

theorem State.Inv.disarm {s : State} (h : s.Inv) : State.Inv { s with armed := false } :=
  { h with armed_bank := nofun, armed_edge := nofun, armed_est := nofun }

theorem State.Inv.tapExpire {s : State} (h : s.Inv) : (tapExpire s).Inv := by
  unfold Machine.tapExpire
  split
  · exact h.disarm
  · exact h

/-- `TAPU` arms in the delay bank only (R135). -/
theorem State.Inv.tapUpdate {s : State} (h : s.Inv) : (tapUpdate cfg s).Inv := by
  unfold Machine.tapUpdate
  split
  · exact (h.tapEdge ‹_›).tapExpire
  · exact h

/-! #### The selector -/

theorem State.Inv.commit {s : State} (h : s.Inv) : (commit cfg s).Inv :=
  { h with
    fade_le := le_refl _
    warmup_le := by
      rw [commit_warmupRemaining]
      split
      · exact le_refl _
      · exact Nat.zero_le _ }

theorem State.Inv.shortAtBank {s : State} (h : s.Inv) (hlevel : s.level = .bank) :
    (shortAtBank s).Inv :=
  { h with preview_eq := fun hp => absurd (hlevel.symm.trans hp) nofun }

theorem State.Inv.shortAtPatch {s : State} (h : s.Inv) : (shortAtPatch cfg s).Inv :=
  State.Inv.commit (h.congr rfl)

theorem State.Inv.longAtPatch {s : State} (h : s.Inv) : (longAtPatch s).Inv :=
  { h with preview_eq := nofun }

/-- Committing the previewed bank keeps `armed` only where the delay bank is not left (R141). -/
theorem State.Inv.longAtBank {s : State} (h : s.Inv) : (longAtBank cfg s).Inv := by
  unfold Machine.longAtBank
  apply State.Inv.commit
  split
  · exact { h.disarm with preview_eq _ := rfl, armed_bank := nofun }
  · rename_i hstay
    refine { h with preview_eq _ := rfl, armed_bank harmed := ?_ }
    by_contra hleave
    exact hstay ⟨h.armed_bank harmed, hleave⟩

/-- The poll writes the button registers only (R156). -/
theorem State.Inv.btnPoll {s : State} (h : s.Inv) : (btnPoll s).1.Inv :=
  h.congr (by simp [invRegs])

theorem State.Inv.btnUpdate {s : State} (h : s.Inv) : (btnUpdate cfg s).Inv := by
  obtain ⟨-, e⟩ | ⟨-, hlevel, e⟩ | ⟨-, -, e⟩ | ⟨-, -, e⟩ | ⟨-, -, e⟩ := btnUpdate_cases cfg s <;>
    rw [e]
  · exact h.btnPoll.congr rfl
  · exact (h.btnPoll.shortAtBank (by simpa using hlevel)).congr rfl
  · exact h.btnPoll.shortAtPatch.congr rfl
  · exact h.btnPoll.longAtBank.congr rfl
  · exact h.btnPoll.longAtPatch.congr rfl

/-! #### The audio operations -/

/-- The snapshot is armed only where the estimator is (R186, R198). -/
theorem State.Inv.latchBlock {s : State} (h : s.Inv) : (latchBlock s).Inv :=
  { h with snapshot_bank := h.armed_bank, snapshot_est := h.armed_est }

theorem State.Inv.sample {s : State} (h : s.Inv) : (sample cfg s).Inv :=
  { h with
    fade_le := le_trans (Nat.sub_le _ _) h.fade_le
    warmup_le := le_trans (Nat.sub_le _ _) h.warmup_le }

/-! #### Every operation -/

theorem State.Inv.effect {s : State} (h : s.Inv) (i : Instr) : (effect i s).Inv := by
  cases i with
  | rst => exact inv_resetRegisters s
  | tapu => exact h.tapUpdate
  | btnu => exact h.btnUpdate
  | blk => exact h.latchBlock
  | smp => exact h.sample
  | nop | potsm0 | potsm1 | potsm2 | cvsm1 | cvsm2 | tko0 | tko1 | tko2 => exact h.congr rfl

/-- Settles O49: the step is one operation to the registers, and every operation keeps the
invariant. -/
theorem stepKeepsSelectorInvariant : Obligations.StepKeepsSelectorInvariant := by
  intro s t h hstep
  obtain ⟨i, s', hregs, hexec⟩ := step_eq_next hstep
  obtain ⟨-, rfl⟩ := exec_eq_next.1 hexec
  exact (h.congr (invRegs_congr hregs)).effect i

/-- `RST` leaves the launch state alone (R272). -/
theorem resetRegisters_reset : resetRegisters cfg State.reset = State.reset := rfl

/-- Settles O50: the launch state is a state after `RST`. -/
theorem resetMeetsSelectorInvariant : Obligations.ResetMeetsSelectorInvariant :=
  (inv_resetRegisters State.reset).congr (congrArg invRegs resetRegisters_reset.symm)

/-! ### The takeover mode -/

/-- The takeover law engages only at or below `eps_on` (R107). -/
theorem fle_epsOn_of_takeover {ch : CvChan} {pot : F} (h : takeover ch false pot = true) :
    fle pot (epsOn ch) = true := by
  simpa [takeover] using h

/-- The takeover law releases only at or above `eps_off` (R107). -/
theorem fge_epsOff_of_takeover {ch : CvChan} {pot : F} (h : takeover ch true pot = false) :
    fge pot (epsOff ch) = true := by
  simpa [takeover] using h

/-- Only `TKO ch` and `RST` write a takeover mode: `TKO` its own channel's, by the law. -/
theorem effect_cvMode_cases (i : Instr) (s : State) (ch : CvChan) :
    (effect i s).cvMode.get ch = s.cvMode.get ch ∨
      (effect i s).cvMode.get ch = takeover ch (s.cvMode.get ch) (s.potS.get ch.toChan) ∨
      (i = .rst ∧ (effect i s).cvMode.get ch = false) := by
  cases i with
  | rst => exact .inr (.inr ⟨rfl, by cases ch <;> rfl⟩)
  | tko1 => cases ch <;> simp [effect]
  | tko2 => cases ch <;> simp [effect]
  | nop | potsm0 | potsm1 | potsm2 | cvsm1 | cvsm2 | tko0 | tapu | btnu | blk | smp =>
    exact .inl (by simp [effect])

/-- Settles O24: a mode that changed was set by `RST`, or by the takeover law at a threshold. -/
theorem cvModeChangesOnlyAtThresholds : Obligations.CvModeChangesOnlyAtThresholds := by
  intro i s t ch hexec
  obtain ⟨-, rfl⟩ := exec_eq_next.1 hexec
  refine ⟨fun hs ht => ?rise, fun hs ht => ?fall⟩
  case rise =>
    obtain hkeep | htko | ⟨-, hoff⟩ := effect_cvMode_cases i s ch
    · simp [hkeep, hs] at ht
    · exact fle_epsOn_of_takeover (by rwa [htko, hs] at ht)
    · simp [hoff] at ht
  case fall =>
    obtain hkeep | htko | ⟨hrst, -⟩ := effect_cvMode_cases i s ch
    · simp [hkeep, hs] at ht
    · exact .inr (fge_epsOff_of_takeover (by rwa [htko, hs] at ht))
    · exact .inl hrst

/-! ### The transition counters -/

/-- The state after `COMMIT` as far as `COMMIT` writes it (R121), with the patch change reported. -/
def Committed (t : State) : Prop :=
  t.pchg = some true ∧ t.fadeRemaining = cfg.fadeLen ∧
    t.warmupRemaining =
      (if cfg.needsWarmup (patchNo t.bank t.index) then cfg.warmupLen else 0) ∧
    t.prim = cfg.dspReset

/-- `BTNU` leaves the counters alone, or commits a patch change. -/
theorem btnUpdate_counters (s : State) :
    ((btnUpdate cfg s).fadeRemaining = s.fadeRemaining ∧
      (btnUpdate cfg s).warmupRemaining = s.warmupRemaining) ∨ Committed (btnUpdate cfg s) := by
  obtain ⟨-, e⟩ | ⟨-, -, e⟩ | ⟨-, -, e⟩ | ⟨-, -, e⟩ | ⟨-, -, e⟩ := btnUpdate_cases cfg s <;> rw [e]
  case inl | inr.inl | inr.inr.inr.inr => exact .inl (by simp)
  case inr.inr.inl | inr.inr.inr.inl => exact .inr ⟨rfl, rfl, rfl, rfl⟩

/-- `SMP` counts down, `RST` clears, `BTNU` may commit, and no other operation writes the counters.
-/
theorem effect_counters (i : Instr) (s : State) :
    ((effect i s).fadeRemaining ≤ s.fadeRemaining ∧
      (effect i s).warmupRemaining ≤ s.warmupRemaining) ∨ Committed (effect i s) := by
  cases i with
  | rst => exact .inl ⟨Nat.zero_le _, Nat.zero_le _⟩
  | smp => exact .inl ⟨Nat.sub_le _ _, Nat.sub_le _ _⟩
  | btnu => exact (btnUpdate_counters s).imp_left fun h => ⟨h.1.le, h.2.le⟩
  | nop | potsm0 | potsm1 | potsm2 | cvsm1 | cvsm2 | tko0 | tko1 | tko2 | tapu | blk =>
    exact .inl (by simp [effect])

/-- Settles O33: the step is one operation to the registers. -/
theorem countersRiseOnlyByCommit : Obligations.CountersRiseOnlyByCommit := by
  intro s t hstep
  obtain ⟨i, s', hregs, hexec⟩ := step_eq_next hstep
  obtain ⟨-, rfl⟩ := exec_eq_next.1 hexec
  have hfade : s'.fadeRemaining = s.fadeRemaining :=
    congrArg (SharedRegs.fadeRemaining ·.2.2) hregs
  have hwarm : s'.warmupRemaining = s.warmupRemaining :=
    congrArg (SharedRegs.warmupRemaining ·.2.2) hregs
  rw [← hfade, ← hwarm]
  exact effect_counters i s'

/-! ### The control domain does not read the audio domain -/

/-- `s` with everything outside the control domain, the ports and `PCHG` taken from `u`: the audio
and the shared registers, the other results and the schedule. -/
def withAudioOf (u s : State) : State :=
  { s with
    fadeRemaining := u.fadeRemaining, warmupRemaining := u.warmupRemaining, prim := u.prim
    aBank := u.aBank, aIndex := u.aIndex, aCtl := u.aCtl, aArmed := u.aArmed, aEst := u.aEst
    dl := u.dl, hpX1 := u.hpX1, hpY1 := u.hpY1, lpZ := u.lpZ
    outL := u.outL, outR := u.outR, pubData := u.pubData
    controlQ := u.controlQ, audioQ := u.audioQ, hostQ := u.hostQ, turn := u.turn }

/-- Two states a control operation cannot tell apart. -/
structure SameControl (s t : State) : Prop where
  regs : controlRegs s = controlRegs t
  ports : inputPorts s = inputPorts t
  pchg : s.pchg = t.pchg

theorem sameControl_withAudioOf (u s : State) : SameControl s (withAudioOf u s) := ⟨rfl, rfl, rfl⟩

theorem SameControl.withAudioOf_eq {s t : State} (h : SameControl s t) : withAudioOf t s = t := by
  obtain ⟨hregs, hports, hpchg⟩ := h
  simp only [controlRegs, ControlRegs.mk.injEq] at hregs
  simp only [inputPorts, InputPorts.mk.injEq] at hports
  simp only [withAudioOf, hregs, hports, hpchg]

/-! Each step of `TAPU` and of `BTNU`'s poll does the same whatever stands in the audio domain. -/

theorem tapRise_withAudioOf (c : Params) (u s : State) :
    tapRise c (withAudioOf u s) = withAudioOf u (tapRise c s) := by
  unfold tapRise
  dsimp only [withAudioOf]
  split <;> rfl

theorem tapEdge_withAudioOf (c : Params) (u s : State) :
    tapEdge c (withAudioOf u s) = withAudioOf u (tapEdge c s) := by
  unfold tapEdge
  rw [tapRise_withAudioOf, apply_ite (withAudioOf u), apply_ite (withAudioOf u)]
  rfl

theorem tapExpire_withAudioOf (u s : State) :
    tapExpire (withAudioOf u s) = withAudioOf u (tapExpire s) := by
  unfold tapExpire
  rw [apply_ite (withAudioOf u)]
  rfl

theorem tapUpdate_withAudioOf (c : Params) (u s : State) :
    tapUpdate c (withAudioOf u s) = withAudioOf u (tapUpdate c s) := by
  unfold tapUpdate
  rw [tapEdge_withAudioOf, tapExpire_withAudioOf, apply_ite (withAudioOf u)]
  rfl

theorem btnTrack_withAudioOf (u s : State) :
    btnTrack (withAudioOf u s) = withAudioOf u (btnTrack s) := by
  unfold btnTrack
  rw [apply_ite (withAudioOf u)]
  rfl

theorem btnDebounce_withAudioOf (u s : State) :
    btnDebounce (withAudioOf u s) = ((btnDebounce s).map (withAudioOf u) id) := by
  unfold btnDebounce
  rw [apply_ite (Prod.map (withAudioOf u) id), apply_ite (Prod.map (withAudioOf u) id)]
  rfl

theorem btnHold_withAudioOf (u : State) (p : State × ButtonEvent) :
    btnHold (p.map (withAudioOf u) id) = (btnHold p).map (withAudioOf u) id := by
  unfold btnHold
  rw [apply_ite (Prod.map (withAudioOf u) id)]
  rfl

theorem btnPoll_withAudioOf (u s : State) :
    btnPoll (withAudioOf u s) = (btnPoll s).map (withAudioOf u) id := by
  unfold btnPoll
  rw [btnTrack_withAudioOf, btnDebounce_withAudioOf, btnHold_withAudioOf]

/-- The event writes the shared registers, and reads none: by the event and the level. -/
theorem btnUpdate_sameControl (c : Params) (u s : State) :
    SameControl (btnUpdate c s) (btnUpdate c (withAudioOf u s)) := by
  unfold btnUpdate
  rw [btnPoll_withAudioOf]
  generalize btnPoll s = p
  obtain ⟨q, event⟩ := p
  unfold btnDispatch evShort evLong
  cases event with
  | none => exact ⟨rfl, rfl, rfl⟩
  | short | long =>
    dsimp only [Prod.map, withAudioOf]
    split <;> exact ⟨rfl, rfl, rfl⟩

theorem effect_sameControl {i : Instr} (hi : mayIssue .control i = true) (u s : State) :
    SameControl (effect i s) (effect i (withAudioOf u s)) := by
  cases i with
  | btnu => exact btnUpdate_sameControl cfg u s
  | tapu =>
    have hcomm : effect .tapu (withAudioOf u s) = withAudioOf u (effect .tapu s) :=
      tapUpdate_withAudioOf cfg u s
    rw [hcomm]
    exact sameControl_withAudioOf u _
  | nop | potsm0 | potsm1 | potsm2 | cvsm1 | cvsm2 | tko0 | tko1 | tko2 => exact ⟨rfl, rfl, rfl⟩
  | rst | blk | smp => cases hi

/-- Settles O48: the second state is the first with another audio domain. -/
theorem controlIgnoresAudio : Obligations.ControlIgnoresAudio := by
  intro i s t s' hi hregs hports hpchg hexec
  obtain ⟨hfin, rfl⟩ := exec_eq_next.1 hexec
  have hst := SameControl.withAudioOf_eq ⟨hregs, hports, hpchg⟩
  have hsame := effect_sameControl hi t s
  have hfin' : portsFinite i (withAudioOf t s) = true := hfin
  rw [hst] at hsame hfin'
  exact ⟨effect i t, exec_eq_next.2 ⟨hfin', rfl⟩, hsame.regs, hsame.pchg⟩

/-! ### The published words -/

/-- `PUB_PATCH` bit by bit (R33). -/
theorem pubPatch_fields (s : State) :
    (pubPatch s).extractLsb' 0 2 = s.index ∧ (pubPatch s).getLsbD 2 = decide (s.bank = .b) ∧
      (pubPatch s).getLsbD 3 = decide (s.level = .patch) ∧
      (pubPatch s).getLsbD 4 = decide (s.preview = .b) ∧
      (pubPatch s).extractLsb' 5 27 = 0#27 := by
  unfold pubPatch
  refine ⟨BitVec.extractLsb'_append_eq_right, ?bank, ?level, ?preview, ?zeros⟩
  case bank => simp only [BitVec.getLsbD_append]; cases s.bank <;> rfl
  case level => simp only [BitVec.getLsbD_append]; cases s.level <;> rfl
  case preview => simp only [BitVec.getLsbD_append]; cases s.preview <;> rfl
  case zeros =>
    have hzeros : ∀ (p l b : BitVec 1) (i : BitVec 2),
        (0#27 ++ p ++ l ++ b ++ i).extractLsb' 5 27 = 0#27 := by decide
    exact hzeros _ _ _ _

/-- `PUB_FLAGS` bit by bit (R33). -/
theorem pubFlags_fields (s : State) :
    (pubFlags s).getLsbD 0 = false ∧ (pubFlags s).getLsbD 1 = s.cvMode.decay ∧
      (pubFlags s).getLsbD 2 = s.cvMode.tone ∧ (pubFlags s).getLsbD 3 = s.armed ∧
      (pubFlags s).extractLsb' 4 28 = 0#28 := by
  unfold pubFlags
  refine ⟨?fixed, ?decay, ?tone, ?armed, ?zeros⟩
  case fixed => simp only [BitVec.getLsbD_append]; rfl
  case decay => simp only [BitVec.getLsbD_append]; cases s.cvMode.decay <;> rfl
  case tone => simp only [BitVec.getLsbD_append]; cases s.cvMode.tone <;> rfl
  case armed => simp only [BitVec.getLsbD_append]; cases s.armed <;> rfl
  case zeros =>
    have hzeros : ∀ a t d : BitVec 1,
        (0#28 ++ a ++ t ++ d ++ 0#1).extractLsb' 4 28 = 0#28 := by decide
    exact hzeros _ _ _

/-- Settles O11: the words 1, 2, 3 and 5 are registers as they stand. -/
theorem publishedWordFields : Obligations.PublishedWordFields := by
  intro s
  obtain ⟨hindex, hbank, hlevel, hpreview, hzeros⟩ := pubPatch_fields s
  obtain ⟨hfixed, hdecay, htone, harmed, hzeros'⟩ := pubFlags_fields s
  exact ⟨pubPatch s, pubFlags s, rfl, hindex, hbank, hlevel, hpreview, hzeros, rfl, rfl, rfl, rfl,
    hfixed, hdecay, htone, harmed, hzeros', rfl⟩

/-! ### The reset state -/

/-- Settles O13: `RST` completes from every state with the values of `resetRegisters`, `0` being
`+0.0`. -/
theorem rstSetsEveryRegister : Obligations.RstSetsEveryRegister := fun s =>
  ⟨resetRegisters cfg s, rfl, rfl, rfl, rfl⟩

/-- The published words of the launch state are the reset column of R33. -/
theorem pubWord_reset :
    pubWord State.reset 0 = some 0x00000008#32 ∧ pubWord State.reset 1 = some 0#32 ∧
      pubWord State.reset 2 = some 0#32 ∧ pubWord State.reset 3 = some 0#32 ∧
      pubWord State.reset 4 = some 0#32 ∧ pubWord State.reset 5 = some 0#32 :=
  ⟨rfl, rfl, rfl, rfl, rfl, rfl⟩

/-- Settles O15: at reset every register holds its reset value already. -/
theorem resetStateIsAfterRst : Obligations.ResetStateIsAfterRst :=
  ⟨exec_eq_next.2 ⟨rfl, resetRegisters_reset⟩, pubWord_reset⟩

end Sys2Proof.Machine

/-! PROOFS of the family `20_memory`: which item of the agents' queues a step takes, what it does with
a command and with a read of a published word, and what `SMP` reads. -/

namespace Sys2Proof.Machine

/-! ### Who is served -/

/-- The presenting agents are those that have an item to take (R18). -/
theorem mem_presenting {g : Agent} {s : State} :
    g ∈ presenting s ↔ (takeFrom g s).isSome = true := by
  cases g with
  | control => cases h : s.controlQ <;> simp [presenting, takeFrom, h]
  | audio => cases h : s.audioQ <;> simp [presenting, takeFrom, h]
  | host =>
    cases h : s.hostQ with
    | nil => simp [presenting, takeFrom, h]
    | cons r q => cases r <;> simp [presenting, takeFrom, h]

/-- The turn is granted to a presenting agent: the free value of R68 is reduced to an index into the
list of the presenting agents. -/
theorem granted_of_presenting {s : State} (h : presenting s ≠ []) :
    ∃ g ∈ presenting s, granted s = some g := by
  unfold granted
  split
  case h_1 hnil => exact absurd hnil h
  case h_2 g hone => exact ⟨g, by simp [hone], rfl⟩
  case h_3 g g' gs hmany =>
    have hlt : Config.grant s.turn % (g :: g' :: gs).length < (g :: g' :: gs).length :=
      Nat.mod_lt _ (Nat.succ_pos _)
    exact ⟨_, by rw [hmany]; exact List.getElem_mem hlt, List.getElem?_eq_getElem hlt⟩

theorem takeNext_of_granted {g : Agent} {s : State} (h : granted s = some g) :
    takeNext s = takeFrom g s := by
  simp [takeNext, h]

/-- Settles O5: the granted agent presents, so it has an item to take. -/
theorem somePresenterIsServed : Obligations.SomePresenterIsServed := by
  intro s hs
  obtain ⟨g, hmem, hgrant⟩ := granted_of_presenting hs
  exact ⟨g, hmem, takeNext_of_granted hgrant, mem_presenting.1 hmem⟩

/-! ### What is taken -/

theorem takeFrom_host_of_readPub_cons {s : State} {n : Nat} {q : List HostRequest}
    (h : s.hostQ = .readPub n :: q) :
    takeFrom .host s = some (.readPub n, { s with hostQ := q, turn := s.turn + 1 }) := by
  simp [takeFrom, h]

/-- Taking the item of an agent takes the head of its queue and counts the turn (R67). -/
theorem takeFrom_cases {g : Agent} {s s' : State} {r : Request}
    (h : takeFrom g s = some (r, s')) :
    (∃ m q, s.controlQ = m :: q ∧ r = .command .control m ∧
        s' = { s with controlQ := q, turn := s.turn + 1 }) ∨
      (∃ m q, s.audioQ = m :: q ∧ r = .command .audio m ∧
        s' = { s with audioQ := q, turn := s.turn + 1 }) ∨
      (∃ m q, s.hostQ = .command m :: q ∧ r = .command .host m ∧
        s' = { s with hostQ := q, turn := s.turn + 1 }) ∨
      ∃ n q, s.hostQ = .readPub n :: q ∧ r = .readPub n ∧
        s' = { s with hostQ := q, turn := s.turn + 1 } := by
  cases g with
  | control =>
    cases hq : s.controlQ with
    | nil => simp [takeFrom, hq] at h
    | cons m q =>
      rw [takeFrom_control_of_cons hq] at h
      cases h
      exact .inl ⟨m, q, rfl, rfl, rfl⟩
  | audio =>
    cases hq : s.audioQ with
    | nil => simp [takeFrom, hq] at h
    | cons m q =>
      rw [takeFrom_audio_of_cons hq] at h
      cases h
      exact .inr (.inl ⟨m, q, rfl, rfl, rfl⟩)
  | host =>
    cases hq : s.hostQ with
    | nil => simp [takeFrom, hq] at h
    | cons x q =>
      cases x with
      | command m =>
        rw [takeFrom_host_of_command_cons hq] at h
        cases h
        exact .inr (.inr (.inl ⟨m, q, rfl, rfl, rfl⟩))
      | readPub n =>
        rw [takeFrom_host_of_readPub_cons hq] at h
        cases h
        exact .inr (.inr (.inr ⟨n, q, rfl, rfl, rfl⟩))

/-- What a step takes is the oldest item of the agent that was granted the turn. -/
theorem takeFrom_of_takeNext {s s' : State} {r : Request} (h : takeNext s = some (r, s')) :
    ∃ g, takeFrom g s = some (r, s') := by
  obtain ⟨g, -, hg⟩ := Option.bind_eq_some_iff.1 h
  exact ⟨g, hg⟩

/-- Settles O6: by whose queue the item was the head of. -/
theorem agentOrderIsKept : Obligations.AgentOrderIsKept := by
  intro s s' r h
  obtain ⟨g, hg⟩ := takeFrom_of_takeNext h
  obtain ⟨m, q, hq, rfl, rfl⟩ | ⟨m, q, hq, rfl, rfl⟩ | ⟨m, q, hq, rfl, rfl⟩ |
    ⟨n, q, hq, rfl, rfl⟩ := takeFrom_cases hg
  all_goals exact ⟨⟨hq, rfl, rfl⟩, rfl⟩

/-! ### What is done with the item -/

theorem step_of_command {s s' : State} {g : Agent} {m : Command}
    (h : takeNext s = some (.command g m, s')) : step s = runCommand g m s' := by
  simp [step, serve, h]

theorem step_of_readPub {s s' : State} {n : Nat} (h : takeNext s = some (.readPub n, s')) :
    step s = readPublished n s' := by
  simp [step, serve, h]

theorem runCommand_of_legal {g : Agent} {m : Command} {s : State} {i : Instr}
    (hdec : decode m.cw = .ok i) (hown : mayIssue g i = true) :
    runCommand g m s = exec i (onPorts m s) := by
  simp [runCommand, hdec, hown]

/-- Settles O3: the taken command is neither reserved nor foreign. -/
theorem stepRunsDecodedCommand : Obligations.StepRunsDecodedCommand := by
  intro s s' g m i htake hdec hown
  rw [step_of_command htake, runCommand_of_legal hdec hown]

/-- The published words are those with the numbers 0 to 5 (R33, R61). -/
theorem pubWord_of_le {n : Nat} (s : State) (h : n ≤ 5) : ∃ w, pubWord s n = some w := by
  interval_cases n <;> exact ⟨_, rfl⟩

theorem pubWord_of_gt {n : Nat} (s : State) (h : 5 < n) : pubWord s n = none := by
  obtain ⟨k, rfl⟩ := Nat.exists_eq_add_of_le' h
  rfl

theorem readPublished_of_some {n : Nat} {s : State} {w : BitVec 32} (h : pubWord s n = some w) :
    readPublished n s = .next { undriven s with pubData := some w } := by
  simp [readPublished, h]

theorem readPublished_of_none {n : Nat} {s : State} (h : pubWord s n = none) :
    readPublished n s = .refused (.pubOutOfRange n) := by
  simp [readPublished, h]

theorem takeNext_readPub {s s' : State} {n : Nat} (h : takeNext s = some (.readPub n, s')) :
    ∃ q, s.hostQ = .readPub n :: q ∧ s' = { s with hostQ := q, turn := s.turn + 1 } := by
  obtain ⟨g, hg⟩ := takeFrom_of_takeNext h
  obtain ⟨_, _, -, ⟨⟩, -⟩ | ⟨_, _, -, ⟨⟩, -⟩ | ⟨_, _, -, ⟨⟩, -⟩ | ⟨_, q, hq, ⟨⟩, hs'⟩ :=
    takeFrom_cases hg
  exact ⟨q, hq, hs'⟩

/-- Settles O10: the words are functions of the registers, which taking the read leaves alone. -/
theorem publishedReads : Obligations.PublishedReads := by
  intro s s' n h
  have hstep := step_of_readPub h
  obtain ⟨q, hq, rfl⟩ := takeNext_readPub h
  have hword : pubWord { s with hostQ := q, turn := s.turn + 1 } n = pubWord s n := rfl
  refine ⟨q, hq, rfl, ?_⟩
  split
  case isTrue hn =>
    obtain ⟨w, hw⟩ := pubWord_of_le s hn
    exact ⟨w, hw, hstep.trans (readPublished_of_some (hword.trans hw))⟩
  case isFalse hn =>
    exact hstep.trans (readPublished_of_none (hword.trans (pubWord_of_gt s (Nat.lt_of_not_le hn))))

/-! ### What `SMP` reads -/

/-- `t` with all that `SMP` reads taken from `s`: the operands, the snapshot, the smoother and
filter memory, the counters and `prim` (R187). -/
def withSmpInputsOf (s t : State) : State :=
  { t with
    aBank := s.aBank, aIndex := s.aIndex, aCtl := s.aCtl, aArmed := s.aArmed, aEst := s.aEst
    dl := s.dl, hpX1 := s.hpX1, hpY1 := s.hpY1, lpZ := s.lpZ
    fadeRemaining := s.fadeRemaining, warmupRemaining := s.warmupRemaining, prim := s.prim
    portA := s.portA, portB := s.portB }

theorem withSmpInputsOf_eq {s t : State} (haudio : audioRegs s = audioRegs t)
    (hshared : sharedRegs s = sharedRegs t) (hA : s.portA = t.portA) (hB : s.portB = t.portB) :
    withSmpInputsOf s t = t := by
  simp only [audioRegs, AudioRegs.mk.injEq] at haudio
  simp only [sharedRegs, SharedRegs.mk.injEq] at hshared
  simp only [withSmpInputsOf, haudio, hshared, hA, hB]

/-- Two states that `SMP` leaves alike: in the registers of the audio side, and on the outputs. -/
structure SameSmpResult (s t : State) : Prop where
  audio : audioRegs s = audioRegs t
  shared : sharedRegs s = sharedRegs t
  outL : s.outL = t.outL
  outR : s.outR = t.outR

/-- Every stage of `SMP` reads the fields `withSmpInputsOf` copies and no other (R187, R69). -/
theorem sample_withSmpInputsOf (c : Params) (s t : State) :
    SameSmpResult (sample c s) (sample c (withSmpInputsOf s t)) := ⟨rfl, rfl, rfl, rfl⟩

/-- Settles O47: the second state is itself with all that `SMP` reads taken from the first. -/
theorem smpReadsOnlyItsDomain : Obligations.SmpReadsOnlyItsDomain := by
  intro s t s' haudio hshared hA hB hexec
  obtain ⟨hfin, rfl⟩ := exec_eq_next.1 hexec
  have hsame := sample_withSmpInputsOf cfg s t
  have hfin' : portsFinite .smp (withSmpInputsOf s t) = true := hfin
  rw [withSmpInputsOf_eq haudio hshared hA hB] at hsame hfin'
  exact ⟨sample cfg t, exec_eq_next.2 ⟨hfin', rfl⟩, hsame.audio, hsame.shared, hsame.outL,
    hsame.outR⟩

end Sys2Proof.Machine

/-! PROOFS of the family `30_encoding`: the command word and its decoder, what a step does with a
reserved or foreign command and with idle ports, and that well-formed schedules are legal. -/

namespace Sys2Proof.Machine

/-! ### The command word -/

/-- The three fields of every operation's word, and who may issue it. -/
theorem commandFields : ∀ i : Instr, Laws.CommandFields.Statement i
  | .nop => Laws.CommandFields.nop
  | .rst => Laws.CommandFields.rst
  | .potsm0 => Laws.CommandFields.potsm0
  | .potsm1 => Laws.CommandFields.potsm1
  | .potsm2 => Laws.CommandFields.potsm2
  | .cvsm1 => Laws.CommandFields.cvsm1
  | .cvsm2 => Laws.CommandFields.cvsm2
  | .tko0 => Laws.CommandFields.tko0
  | .tko1 => Laws.CommandFields.tko1
  | .tko2 => Laws.CommandFields.tko2
  | .tapu => Laws.CommandFields.tapu
  | .btnu => Laws.CommandFields.btnu
  | .blk => Laws.CommandFields.blk
  | .smp => Laws.CommandFields.smp

/-- A command word is its three fields, `{rsv, ch, op}` (R80). -/
theorem commandWord_eq_fields (cw : CommandWord) : cw = cwRsv cw ++ cwCh cw ++ cwOp cw := by
  have hhigh : cwRsv cw ++ cwCh cw = cw.extractLsb' 4 4 :=
    BitVec.extractLsb'_append_extractLsb'_eq_extractLsb' rfl
  have hall : cw.extractLsb' 4 4 ++ cwOp cw = cw.extractLsb' 0 8 :=
    BitVec.extractLsb'_append_extractLsb'_eq_extractLsb' rfl
  rw [hhigh, hall, BitVec.extractLsb'_eq_self]

theorem withoutChannel_eq_ok {ch : BitVec 2} {i j : Instr} :
    withoutChannel ch j = .ok i ↔ ch = 0 ∧ j = i := by
  unfold withoutChannel
  split <;> simp_all

/-- Every operation is decoded from its own code and channel (R82). -/
theorem decodeOp_opOf_chOf (i : Instr) : decodeOp (opOf i) (chOf i) = .ok i := by
  cases i <;> rfl

/-- The code and the channel that decode to an operation are its own: each branch of the decoder
answers at most one operation for a channel (R82). -/
theorem fields_of_decodeOp {op : BitVec 4} {ch : BitVec 2} {i : Instr}
    (h : decodeOp op ch = .ok i) : op = opOf i ∧ ch = chOf i := by
  unfold decodeOp at h
  split at h
  case h_1 hop | h_2 hop | h_6 hop | h_7 hop | h_8 hop | h_9 hop =>
    obtain ⟨rfl, rfl⟩ := withoutChannel_eq_ok.1 h
    exact ⟨BitVec.eq_of_toNat_eq hop, rfl⟩
  case h_3 hop | h_4 hop | h_5 hop =>
    split at h <;> cases h
    all_goals exact ⟨BitVec.eq_of_toNat_eq hop, BitVec.eq_of_toNat_eq ‹_›⟩
  case h_10 => cases h

/-- The decoder accepts exactly the words of the encoder (R80, R82). -/
theorem decode_eq_ok {cw : CommandWord} {i : Instr} : decode cw = .ok i ↔ cw = encode i := by
  constructor
  · intro h
    unfold decode at h
    split at h
    · rename_i hrsv
      obtain ⟨hop, hch⟩ := fields_of_decodeOp h
      rw [commandWord_eq_fields cw, hrsv, hch, hop]
      rfl
    · cases h
  · rintro rfl
    obtain ⟨hrsv, hop, hch, -⟩ := commandFields i
    rw [decode, if_pos hrsv, hop, hch, decodeOp_opOf_chOf]

/-- Settles O1: the encoder's word is one the decoder accepts, for its operation. -/
theorem encodeThenDecode : Obligations.EncodeThenDecode := fun _ => decode_eq_ok.2 rfl

theorem mem_instrAll (i : Instr) : i ∈ Instr.all := by cases i <;> decide

/-- A word that is not the word of one of the fourteen operations is rejected (R84). -/
theorem decode_error_of_not_mem {cw : CommandWord} (h : cw ∉ Instr.all.map encode) :
    ∃ e, decode cw = .error e := by
  cases hdec : decode cw with
  | error e => exact ⟨e, rfl⟩
  | ok i =>
    rw [decode_eq_ok.1 hdec] at h
    exact absurd (List.mem_map_of_mem (mem_instrAll i)) h

/-- Settles O2: the words listed in R85 are the encoder's, in the order of the operations. -/
theorem fourteenLegalCommandWords : Obligations.FourteenLegalCommandWords := by
  refine ⟨?_, ?_, ?_, ?_, ?_, ?_, ?_, ?_, ?_, ?_, ?_, ?_, ?_, ?_,
    fun _ hcw => decode_error_of_not_mem hcw⟩
  all_goals exact decode_eq_ok.2 rfl

/-! ### Refused and idle steps -/

theorem runCommand_of_reserved {g : Agent} {m : Command} {s : State} {e : DecodeError}
    (hdec : decode m.cw = .error e) :
    runCommand g m s = .refused (.reservedCommand m.cw e) := by
  simp [runCommand, hdec]

theorem runCommand_of_foreign {g : Agent} {m : Command} {s : State} {i : Instr}
    (hdec : decode m.cw = .ok i) (hown : mayIssue g i = false) :
    runCommand g m s = .refused (.wrongAgent g i) := by
  simp [runCommand, hdec, hown]

/-- Settles O7: the two checks of a taken command that come before its meaning. -/
theorem reservedAndForeignRefused : Obligations.ReservedAndForeignRefused := by
  intro s s' g m htake
  rw [step_of_command htake]
  exact ⟨fun _ hdec => runCommand_of_reserved hdec,
    fun _ hdec hown => runCommand_of_foreign hdec hown⟩

theorem exec_nop (s : State) : exec .nop s = .next s := rfl

/-- Settles O12: `0x00` is the word of `NOP`. -/
theorem nopChangesNothing : Obligations.NopChangesNothing := ⟨decode_eq_ok.2 rfl, exec_nop⟩

theorem takeNext_of_presenting_nil {s : State} (h : presenting s = []) : takeNext s = none := by
  have hg : granted s = none := by unfold granted; rw [h]
  simp [takeNext, hg]

theorem step_of_takeNext_none {s : State} (h : takeNext s = none) :
    step s = exec .nop (undriven s) := by
  simp [step, serve, h]

/-- Settles O9: with nothing to take, the step is the `NOP` of an idle port (R83). -/
theorem idleStepIsNop : Obligations.IdleStepIsNop := fun _ h =>
  (step_of_takeNext_none (takeNext_of_presenting_nil h)).trans (exec_nop _)

/-! ### Schedules -/

/-- The command `m` carries the word of an operation that `g` may issue (R84, R252). -/
def IssuableBy (g : Agent) (m : Command) : Prop := ∃ i, mayIssue g i = true ∧ m.cw = encode i

theorem issuableBy_command {g : Agent} {i : Instr} (h : mayIssue g i = true) (t : Time) (a b : F)
    (l : Bool) : IssuableBy g (command i t a b l) := ⟨i, h, rfl⟩

/-- With finite operands that is all a legal command needs, whichever ports it reads (R13). -/
theorem commandLegal_of_issuableBy {g : Agent} {m : Command} (h : IssuableBy g m)
    (hA : isFinite m.a = true) (hB : isFinite m.b = true) : commandLegal g m = true := by
  obtain ⟨i, hown, hcw⟩ := h
  simp [commandLegal, decode_eq_ok.2 hcw, hown, operandsFinite, hA, hB]

/-- The ten commands of a `TICK` are the control agent's (R96). -/
theorem issuableBy_of_mem_tick {t : Time} {p0 p1 p2 v1 v2 g : F} {b : Bool} {m : Command}
    (h : m ∈ tick t p0 p1 p2 v1 v2 g b) : IssuableBy .control m := by
  simp only [tick, List.mem_cons, List.not_mem_nil, or_false] at h
  rcases h with rfl | rfl | rfl | rfl | rfl | rfl | rfl | rfl | rfl | rfl
  all_goals exact issuableBy_command rfl ..

/-- The commands of a `BLOCK` are the audio agent's (R97). -/
theorem issuableBy_of_mem_block {samples : List (F × F)} {m : Command} (h : m ∈ block samples) :
    IssuableBy .audio m := by
  obtain rfl | hsmp := List.mem_cons.1 h
  · exact issuableBy_command rfl ..
  · obtain ⟨x, -, rfl⟩ := List.mem_map.1 hsmp
    exact issuableBy_command rfl ..

theorem AudioSchedule.issuableBy {c : Params} {q : List Command} (h : AudioSchedule c q) :
    ∀ m ∈ q, IssuableBy .audio m := by
  induction h with
  | nil => exact nofun
  | nop t a b l _ ih => exact List.forall_mem_cons.2 ⟨issuableBy_command rfl .., ih⟩
  | block _ _ _ ih => exact List.forall_mem_append.2 ⟨fun _ => issuableBy_of_mem_block, ih⟩

theorem ControlSchedule.issuableBy {prev : Option Time} {q : List Command}
    (h : ControlSchedule prev q) : ∀ m ∈ q, IssuableBy .control m := by
  induction h with
  | nil => exact nofun
  | nop _ t a b l _ ih => exact List.forall_mem_cons.2 ⟨issuableBy_command rfl .., ih⟩
  | tick _ _ _ _ _ _ _ _ _ _ _ ih =>
    exact List.forall_mem_append.2 ⟨fun _ => issuableBy_of_mem_tick, ih⟩

theorem all_commandLegal {g : Agent} {q : List Command} (hissue : ∀ m ∈ q, IssuableBy g m)
    (hfin : ∀ m ∈ q, isFinite m.a = true ∧ isFinite m.b = true) :
    q.all (commandLegal g) = true := by
  refine List.all_eq_true.2 fun m hm => ?_
  obtain ⟨hA, hB⟩ := hfin m hm
  exact commandLegal_of_issuableBy (hissue m hm) hA hB

/-- Settles O45: by induction on the schedule, each agent's commands are its own. -/
theorem wellFormedSchedulesAreLegal : Obligations.WellFormedSchedulesAreLegal :=
  ⟨fun _ h hfin => all_commandLegal h.issuableBy hfin,
    fun _ _ h hfin => all_commandLegal h.issuableBy hfin⟩

end Sys2Proof.Machine

/-! PROOFS of the family `40_parameter_controller`: what `POTSM`, `CVSM` and `TKO` write, the
voltage-to-unipolar map, and the takeover law. -/

namespace Sys2Proof.Machine

/-! ### Order and clamping -/

/-- A number that compares equal to a nonzero one is that number, bit for bit. -/
theorem eq_of_fkey_eq {x y : F} (h : fkey x = fkey y) (h0 : fkey y ≠ 0) : x = y := by
  obtain ⟨hneg, hmag⟩ : isNeg x = isNeg y ∧ fmag x = fmag y := by
    unfold fkey at h h0
    cases hx : isNeg x <;> cases hy : isNeg y <;>
      simp only [hx, hy, Bool.false_eq_true, if_true, if_false, true_and] at h h0 ⊢ <;> omega
  rw [← pack_self x, ← pack_self y, hneg, hmag]

theorem fkey_le_of_fle {x y : F} (h : fle x y = true) : fkey x ≤ fkey y :=
  (fkey_le_iff x y).2 (units_le_of_fle h)

theorem fle_iff_fkey {x y : F} (hx : isNaN x = false) (hy : isNaN y = false) :
    fle x y = true ↔ fkey x ≤ fkey y := by
  rw [fle_iff hx hy, fkey_le_iff]

theorem flt_of_fle_of_flt {x y z : F} (hxy : fle x y = true) (hyz : flt y z = true) :
    flt x z = true := by
  obtain ⟨hx, hy⟩ := fle_isNaN hxy
  obtain ⟨-, hz⟩ := flt_isNaN hyz
  rw [flt_iff hx hz]
  exact lt_of_le_of_lt (units_le_of_fle hxy) ((flt_iff hy hz).1 hyz)

/-- `clamp` answers the low end for anything below it (R14). -/
theorem clamp_of_flt {x lo hi : F} (h : flt x lo = true) : clamp x lo hi = lo := by
  simp [clamp, h]

/-- `clamp` answers a nonzero high end, bit for bit, for anything at or above it (R14). -/
theorem clamp_of_fle {x lo hi : F} (hlo : fle lo hi = true) (hx : fle hi x = true)
    (h0 : fkey hi ≠ 0) : clamp x lo hi = hi := by
  obtain ⟨hln, hhn⟩ := fle_isNaN hlo
  obtain ⟨-, hxn⟩ := fle_isNaN hx
  have hlow : ¬ flt x lo = true := by
    rw [flt_iff hxn hln]
    exact not_lt.2 (units_le_of_fle (fle_trans hlo hx))
  unfold clamp fgt
  rw [if_neg hlow]
  split
  · rfl
  · rename_i hhigh
    rw [flt_iff hhn hxn, ← fkey_lt_iff] at hhigh
    exact eq_of_fkey_eq (le_antisymm (not_lt.1 hhigh) (fkey_le_of_fle hx)) h0

/-! ### The affine map of a voltage is monotone, infinities included -/

theorem fmag_of_isInf {x : F} (h : isInf x = true) : fmag x = infMag := by simpa [isInf] using h

theorem isNaN_of_isInf {x : F} (h : isInf x = true) : isNaN x = false := by
  simp [isNaN, fmag_of_isInf h]

theorem isInf_of_not_isFinite {x : F} (hn : isNaN x = false) (h : isFinite x = false) :
    isInf x = true := by
  have hle := fmag_le_infMag hn
  simp only [isFinite, decide_eq_false_iff_not, not_lt] at h
  simpa [isInf] using le_antisymm hle h

/-- Every number lies between the two infinities. -/
theorem fkey_between {x : F} (h : isNaN x = false) :
    -(infMag : Int) ≤ fkey x ∧ fkey x ≤ infMag := by
  have := fmag_le_infMag h
  unfold fkey
  split <;> omega

theorem fkey_of_isInf {x : F} (h : isInf x = true) : fkey x = infMag ∨ fkey x = -infMag := by
  unfold fkey
  rw [fmag_of_isInf h]
  split
  · exact .inr rfl
  · exact .inl rfl

theorem fkey_of_isFinite {x : F} (h : isFinite x = true) :
    -(infMag : Int) < fkey x ∧ fkey x < infMag := by
  have := (isFinite_iff x).1 h
  unfold fkey
  split <;> omega

/-- A map that is monotone on the finite numbers and keeps the infinities is monotone. -/
theorem fle_map_of_finite {f : F → F} (hinf : ∀ x, isInf x = true → f x = x)
    (hfin : ∀ x y, isFinite x = true → isFinite y = true → units x ≤ units y →
      fle (f x) (f y) = true) {x y : F} (h : fle x y = true) : fle (f x) (f y) = true := by
  obtain ⟨hxn, hyn⟩ := fle_isNaN h
  have hkey := fkey_le_of_fle h
  have hnum : ∀ z, isFinite z = true → isNaN (f z) = false := fun z hz =>
    (fle_isNaN (hfin z z hz hz le_rfl)).1
  cases hx : isFinite x <;> cases hy : isFinite y
  case true.true => exact hfin x y hx hy (units_le_of_fle h)
  case false.false =>
    rwa [hinf x (isInf_of_not_isFinite hxn hx), hinf y (isInf_of_not_isFinite hyn hy)]
  case false.true =>
    have hxi := isInf_of_not_isFinite hxn hx
    rw [hinf x hxi, fle_iff_fkey hxn (hnum y hy)]
    have hfy := fkey_between (hnum y hy)
    have hfin := fkey_of_isFinite hy
    have hends := fkey_of_isInf hxi
    omega
  case true.false =>
    have hyi := isInf_of_not_isFinite hyn hy
    rw [hinf y hyi, fle_iff_fkey (hnum x hx) hyn]
    have hfx := fkey_between (hnum x hx)
    have hfin := fkey_of_isFinite hx
    have hends := fkey_of_isInf hyi
    omega

/-- An infinity plus a finite number is that infinity. -/
theorem fadd_of_isInf {x y : F} (hx : isInf x = true) (hy : isFinite y = true) :
    fadd x y = x := by
  simp [fadd, isNaN_of_isInf hx, hx, isNaN_of_isFinite hy, isInf_of_isFinite hy]

/-- An infinity divided by a finite positive number is that infinity. -/
theorem fdiv_of_isInf {x y : F} (hx : isInf x = true) (hy : isFinite y = true)
    (hpos : 0 < units y) : fdiv x y = x := by
  have hself : pack (isNeg x) infMag = x := fmag_of_isInf hx ▸ pack_self x
  simp [fdiv, isNaN_of_isInf hx, hx, isNaN_of_isFinite hy, isInf_of_isFinite hy,
    (absUnits_pos hpos).2, hself]

theorem fadd_fle_fadd {x y z : F} (hz : isFinite z = true) (h : fle x y = true) :
    fle (fadd x z) (fadd y z) = true :=
  fle_map_of_finite (f := fun v => fadd v z) (fun _ hx => fadd_of_isInf hx hz)
    (fun _ _ hx hy hle => fadd_mono hx hz hy hz (Int.add_le_add_right hle _)) h

theorem fdiv_fle_fdiv {x y z : F} (hz : isFinite z = true) (hpos : 0 < units z)
    (h : fle x y = true) : fle (fdiv x z) (fdiv y z) = true :=
  fle_map_of_finite (f := fun v => fdiv v z) (fun _ hx => fdiv_of_isInf hx hz hpos)
    (fun _ _ hx hy hle => fdiv_mono hx hy hz hpos hle) h

/-- The voltage map of R106 before its clamp. -/
def cvAffine (v : F) : F := fdiv (fadd v fFive) fTen

theorem cvmap_eq_clamp (v : F) : cvmap v = clamp (cvAffine v) fZero fOne := rfl

theorem cvAffine_mono {v w : F} (h : fle v w = true) : fle (cvAffine v) (cvAffine w) = true :=
  fdiv_fle_fdiv (by decide) (by decide +kernel) (fadd_fle_fadd (by decide) h)

/-! ### The values of the voltage map -/

/-- `-5.0`. -/
def fNegFive : F := 0xC0A00000#32

/-- The largest number below -5.0. -/
def belowNegFive : F := 0xC0A00001#32

/-- The affine map is exact at the ends of R106, and strictly negative just below -5 V: the quotient
does not underflow to a zero. -/
theorem cvAffine_values : cvAffine fFive = fOne ∧ cvAffine fNegFive = fZero ∧
    flt (cvAffine belowNegFive) fZero = true := by
  decide +kernel

theorem eq_or_fle_belowNegFive {v : F} (h : fle v fNegFive = true) :
    v = fNegFive ∨ fle v belowNegFive = true := by
  have hkey := fkey_le_of_fle h
  have hsucc : fkey fNegFive = fkey belowNegFive + 1 := by decide
  rcases hkey.eq_or_lt with heq | hlt
  · exact .inl (eq_of_fkey_eq heq (by decide))
  · exact .inr ((fle_iff_fkey (fle_isNaN h).1 (by decide)).2 (by omega))

theorem cvmap_of_fle_negFive {v : F} (h : fle v fNegFive = true) : cvmap v = fZero := by
  obtain ⟨-, hend, hbelow⟩ := cvAffine_values
  rw [cvmap_eq_clamp]
  obtain rfl | hv := eq_or_fle_belowNegFive h
  · rw [hend]
    exact clamp_self (by decide) (by decide)
  · exact clamp_of_flt (flt_of_fle_of_flt (cvAffine_mono hv) hbelow)

theorem cvmap_of_five_fle {v : F} (h : fle fFive v = true) : cvmap v = fOne := by
  have hone : fle fOne (cvAffine v) = true := cvAffine_values.1 ▸ cvAffine_mono h
  exact clamp_of_fle (by decide) hone (by decide)

/-- Settles O18: the affine map is monotone and known at three voltages. -/
theorem cvMapValues : Obligations.CvMapValues :=
  ⟨fun _ => rfl, fun _ => cvmap_of_fle_negFive, by decide +kernel, fun _ => cvmap_of_five_fle⟩

/-! ### The smoothers -/

/-- `POTSM` on a finite reading completes (R101). -/
theorem exec_potsm {s : State} (hA : isFinite s.portA = true) :
    exec .potsm0 s = .next (potSmooth .mix s) ∧ exec .potsm1 s = .next (potSmooth .decay s) ∧
      exec .potsm2 s = .next (potSmooth .tone s) :=
  ⟨withFiniteA_eq_next.2 ⟨hA, rfl⟩, withFiniteA_eq_next.2 ⟨hA, rfl⟩,
    withFiniteA_eq_next.2 ⟨hA, rfl⟩⟩

/-- `CVSM` on a finite voltage completes (R104). -/
theorem exec_cvsm {s : State} (hA : isFinite s.portA = true) :
    exec .cvsm1 s = .next (cvSmooth cfg .decay s) ∧
      exec .cvsm2 s = .next (cvSmooth cfg .tone s) :=
  ⟨withFiniteA_eq_next.2 ⟨hA, rfl⟩, withFiniteA_eq_next.2 ⟨hA, rfl⟩⟩

/-- Settles O16: the three states written out are those of `potSmooth`. -/
theorem potsmSmoothsItsChannel : Obligations.PotsmSmoothsItsChannel :=
  ⟨decode_eq_ok.2 rfl, decode_eq_ok.2 rfl, decode_eq_ok.2 rfl, fun _ hA => exec_potsm hA⟩

/-- Settles O17: the two states written out are those of `cvSmooth`. -/
theorem cvsmSmoothsItsChannel : Obligations.CvsmSmoothsItsChannel :=
  ⟨decode_eq_ok.2 rfl, decode_eq_ok.2 rfl, fun _ hA => exec_cvsm hA⟩

/-- The pot that `POTSM ch` leaves lies between the pot before and the clamped reading (R103). -/
theorem potSmooth_between {s : State} (h : potsInUnit s) (hA : isFinite s.portA = true) (ch : Chan) :
    let x := clamp s.portA fZero fOne
    let p := s.potS.get ch
    let p' := (potSmooth ch s).potS.get ch
    (fle p x = true → fle p p' = true ∧ fle p' x = true) ∧
      (fle x p = true → fle x p' = true ∧ fle p' p = true) := by
  rw [potSmooth_potS, perChan_get_set, if_pos rfl]
  exact onePole_potAlpha_between (h ch) (inUnit_clamp hA)

/-- Settles O20: channel by channel. -/
theorem potSmootherNeverOvershoots : Obligations.PotSmootherNeverOvershoots := by
  intro s h hA
  obtain ⟨hmix, hdecay, htone⟩ := exec_potsm hA
  simp only [List.forall_mem_cons, List.not_mem_nil, false_imp_iff, implies_true, and_true]
  exact ⟨⟨_, hmix, potSmooth_between h hA .mix⟩, ⟨_, hdecay, potSmooth_between h hA .decay⟩,
    ⟨_, htone, potSmooth_between h hA .tone⟩⟩

/-! ### The takeover -/

/-- `TKO` reads no port and always completes (R108). -/
theorem exec_tko (s : State) :
    exec .tko0 s = .next (takeMix s) ∧ exec .tko1 s = .next (takeCv .decay s) ∧
      exec .tko2 s = .next (takeCv .tone s) :=
  ⟨rfl, rfl, rfl⟩

/-- The takeover law with the two thresholds as the patterns of 0.015 and 0.030 (R107). -/
theorem takeover_eq (ch : CvChan) (mode : Bool) (pot : F) :
    takeover ch mode pot =
      if mode = false ∧ fle pot 0x3C75C28F#32 = true then true
      else if mode = true ∧ fge pot 0x3CF5C28F#32 = true then false
      else mode := by
  cases ch <;> cases mode <;> simp [takeover, epsOn, epsOff]

/-- Settles O19: `takeMix` and `takeCv` with the law written out. -/
theorem tkoResolvesAndSelects : Obligations.TkoResolvesAndSelects := by
  refine ⟨decode_eq_ok.2 rfl, decode_eq_ok.2 rfl, decode_eq_ok.2 rfl, fun s => ?_⟩
  have hexec := exec_tko s
  simp only [takeCv, takeover_eq] at hexec
  exact hexec

/-- The voltage map yields a number of [0,1] for every number (R106). -/
theorem inUnit_cvmap {v : F} (h : isNaN v = false) : inUnit (cvmap v) = true := by
  have hnum : isNaN (cvAffine v) = false := (fle_isNaN (cvAffine_mono (fle_refl h))).1
  exact Bool.and_eq_true_iff.2 (clamp_inRange (by decide) hnum)

theorem inUnit_takeMix {s : State} (h : potsInUnit s) : inUnit (takeMix s).ctl.mix = true :=
  h .mix

/-- Under either mode the selected control value lies in [0,1] (R109 e). -/
theorem inUnit_takeCv {s : State} (h : potsInUnit s) (ch : CvChan)
    (hcv : isNaN (s.cvS.get ch) = false) :
    inUnit ((takeCv ch s).ctl.get ch.toChan) = true := by
  rw [takeCv_ctl, perChan_get_set, if_pos rfl]
  split
  · exact inUnit_cvmap hcv
  · exact h ch.toChan

/-- Settles O23: the pot is in [0,1] by hypothesis, the mapped voltage by its clamp. -/
theorem tkoControlValueInUnit : Obligations.TkoControlValueInUnit := by
  intro s h
  obtain ⟨hmix, hdecay, htone⟩ := exec_tko s
  exact ⟨⟨_, hmix, inUnit_takeMix h⟩, fun hcv => ⟨_, hdecay, inUnit_takeCv h .decay hcv⟩,
    fun hcv => ⟨_, htone, inUnit_takeCv h .tone hcv⟩⟩

/-- No pot value is both at or below `eps_on` and at or above `eps_off` (R23). -/
theorem not_fge_epsOff_of_fle_epsOn {ch : CvChan} {pot : F} (hon : fle pot (epsOn ch) = true) :
    fge pot (epsOff ch) = false := by
  have hgap : fle (epsOff ch) (epsOn ch) = false := by cases ch <;> decide
  by_contra hoff
  have hle := fle_trans (Bool.eq_true_of_not_eq_false hoff) hon
  simp [hgap] at hle

/-- The takeover law is idempotent: the gap between the thresholds is its hysteresis (R109 c). -/
theorem takeover_takeover (ch : CvChan) (mode : Bool) (pot : F) :
    takeover ch (takeover ch mode pot) pot = takeover ch mode pot := by
  have hgap := not_fge_epsOff_of_fle_epsOn (ch := ch) (pot := pot)
  cases mode with
  | false => cases hon : fle pot (epsOn ch) <;> simp [takeover, hon, hgap]
  | true =>
    cases hoff : fge pot (epsOff ch) with
    | false => simp [takeover, hoff]
    | true =>
      have hon : fle pot (epsOn ch) = false := by
        by_contra hon
        simp [hgap (Bool.eq_true_of_not_eq_false hon)] at hoff
      simp [takeover, hoff, hon]

theorem perChan_set_set {α : Type} (v : PerChan α) (ch : Chan) (x y : α) :
    (v.set ch x).set ch y = v.set ch y := by
  cases ch <;> rfl

theorem perCv_set_set {α : Type} (v : PerCv α) (ch : CvChan) (x y : α) :
    (v.set ch x).set ch y = v.set ch y := by
  cases ch <;> rfl

/-- A second `TKO ch` finds the pot and the voltage as the first did, and the mode resolved. -/
theorem takeCv_takeCv (ch : CvChan) (s : State) : takeCv ch (takeCv ch s) = takeCv ch s := by
  simp only [takeCv, perCv_get_set, if_true, takeover_takeover, perCv_set_set, perChan_set_set]

/-- Settles O25: both channels by `takeCv_takeCv`. -/
theorem tkoDoesNotOscillate : Obligations.TkoDoesNotOscillate := by
  intro s
  obtain ⟨-, hdecay, htone⟩ := exec_tko s
  obtain ⟨-, hdecay', -⟩ := exec_tko (takeCv .decay s)
  obtain ⟨-, -, htone'⟩ := exec_tko (takeCv .tone s)
  exact ⟨⟨_, _, hdecay, hdecay', takeCv_takeCv .decay s⟩,
    ⟨_, _, htone, htone', takeCv_takeCv .tone s⟩⟩

end Sys2Proof.Machine

/-! PROOFS of the family `41_transition_manager`: what the gain of a ramp is at its ends and between
them, and a run of `SMP`s as the countdown of both ramps. -/

namespace Sys2Proof.Machine

/-! ### The gain of a ramp -/

/-- A ramp length that `F` counts exactly (R8): every counter value up to it is a number of its own. -/
def RampLength (len : Nat) : Prop := 0 < len ∧ len < 2 ^ 24

theorem rampLength_of_wellFormed {c : Params} (h : c.WellFormed) :
    RampLength c.fadeLen ∧ RampLength c.warmupLen := by
  have hlen := h.lengths
  simp only [Params.lengthsOk, decide_eq_true_eq] at hlen
  unfold RampLength
  omega

/-- The part of the ramp still to run, `F(remaining) / F(len)`. -/
def rampRest (remaining len : Nat) : F := fdiv (fofNat remaining) (fofNat len)

theorem rampGain_eq_fsub_rampRest (remaining len : Nat) :
    rampGain remaining len = fsub fOne (rampRest remaining len) := rfl

theorem isFinite_fofNat {n : Nat} (h : n < 2 ^ 24) : isFinite (fofNat n) = true :=
  (fofNat_exact h).1

theorem units_fofNat_mono {m n : Nat} (h : m ≤ n) (hn : n < 2 ^ 24) :
    units (fofNat m) ≤ units (fofNat n) := by
  rw [units_fofNat hn, units_fofNat (h.trans_lt hn)]
  exact Int.mul_le_mul_of_nonneg_right (Int.ofNat_le.2 h) (Int.natCast_nonneg _)

theorem units_fofNat_pos {n : Nat} (h : RampLength n) : 0 < units (fofNat n) := by
  rw [units_fofNat h.2]
  exact Int.mul_pos (Int.natCast_pos.2 h.1) (Int.natCast_pos.2 oneUnits_pos)

theorem rampRest_isFinite {remaining len : Nat} (hlen : RampLength len) (hle : remaining ≤ len) :
    isFinite (rampRest remaining len) = true :=
  (fdiv_unit (isFinite_fofNat (hle.trans_lt hlen.2)) (isFinite_fofNat hlen.2)
    (by rw [units_fofNat (hle.trans_lt hlen.2)]; positivity) (units_fofNat_pos hlen)
    (units_fofNat_mono hle hlen.2)).1

theorem rampRest_mono {m n len : Nat} (hlen : RampLength len) (hmn : m ≤ n) (hn : n ≤ len) :
    fle (rampRest m len) (rampRest n len) = true :=
  have hn24 := hn.trans_lt hlen.2
  fdiv_mono (isFinite_fofNat (hmn.trans_lt hn24)) (isFinite_fofNat hn24) (isFinite_fofNat hlen.2)
    (units_fofNat_pos hlen) (units_fofNat_mono hmn hn24)

/-- The rounded difference from one number is antitone in the subtrahend. -/
theorem fsub_anti {z x y : F} (hz : isFinite z = true) (hx : isFinite x = true)
    (hy : isFinite y = true) (h : units x ≤ units y) : fle (fsub z y) (fsub z x) = true :=
  fadd_mono hz ((isFinite_fneg y).trans hy) hz ((isFinite_fneg x).trans hx)
    (by simp only [units_fneg]; omega)

/-- A smaller counter gives a gain at least as large: neither the rounded quotient nor the rounded
difference turns the order round (R128). -/
theorem rampGain_anti {m n len : Nat} (hlen : RampLength len) (hmn : m ≤ n) (hn : n ≤ len) :
    fle (rampGain n len) (rampGain m len) = true :=
  fsub_anti isFinite_fOne (rampRest_isFinite hlen (hmn.trans hn)) (rampRest_isFinite hlen hn)
    (units_le_of_fle (rampRest_mono hlen hmn hn))

theorem eq_fOne_of_units_eq {x : F} (h : units x = units fOne) : x = fOne :=
  eq_of_fkey_eq ((fkey_eq_iff _ _).2 h) (by decide)

/-- A ramp just armed has all of itself left: a number divided by itself is 1.0. -/
theorem rampRest_full {len : Nat} (hlen : RampLength len) : rampRest len len = fOne := by
  have hpos := units_fofNat_pos hlen
  have hfin := isFinite_fofNat hlen.2
  have hround := fdiv_roundsTo hfin hfin hpos
  have habs : (absUnits (fofNat len) : Int) = units (fofNat len) := by
    simp [units, (absUnits_pos hpos).2]
  refine eq_fOne_of_units_eq (hround.exact (isNaN_of_isFinite isFinite_fOne) ?_)
  rw [habs, units_fOne, mul_comm]

theorem units_rampRest_zero {len : Nat} (hlen : RampLength len) : units (rampRest 0 len) = 0 := by
  have hzero : (0 : Nat) < 2 ^ 24 := by decide
  have hround := fdiv_roundsTo (isFinite_fofNat hzero) (isFinite_fofNat hlen.2)
    (units_fofNat_pos hlen)
  refine (hround.exact (isNaN_of_isFinite isFinite_fZero) ?_).trans units_fZero
  simp [units_fofNat hzero, units_fZero]

/-- The gain at the first sample of a ramp (R127). -/
theorem rampGain_full {len : Nat} (hlen : RampLength len) : rampGain len len = fZero := by
  rw [rampGain_eq_fsub_rampRest, rampRest_full hlen]
  decide +kernel

/-- The gain once the ramp has run down (R127). -/
theorem rampGain_zero {len : Nat} (hlen : RampLength len) : rampGain 0 len = fOne := by
  have hround := fsub_roundsTo isFinite_fOne (rampRest_isFinite hlen (Nat.zero_le len))
  refine eq_fOne_of_units_eq (hround.exact (isNaN_of_isFinite isFinite_fOne) ?_)
  rw [units_rampRest_zero hlen]
  simp

/-- A ramp `n` samples after its arm: 0.0 at the arm, 1.0 from sample `len` on (R127). -/
theorem rampGain_of_armed {remaining len : Nat} (hlen : RampLength len) (harm : remaining = len)
    (n : Nat) :
    rampGain remaining len = fZero ∧ (len ≤ n → rampGain (remaining - n) len = fOne) := by
  subst harm
  refine ⟨rampGain_full hlen, fun hn => ?_⟩
  rw [Nat.sub_eq_zero_of_le hn]
  exact rampGain_zero hlen

/-- Settles O35: both gains are ramps whose lengths R8 bounds. -/
theorem gainsNeverFall : Obligations.GainsNeverFall := by
  obtain ⟨hfade, hwarmup⟩ := rampLength_of_wellFormed Config.machine.wellFormed
  exact fun _ _ => ⟨rampGain_anti hfade, rampGain_anti hwarmup⟩

/-! ### A run of samples -/

/-- `SMP` on finite operands completes (R187). -/
theorem exec_smp {s : State} (hA : isFinite s.portA = true) (hB : isFinite s.portB = true) :
    exec .smp s = .next (sample cfg s) :=
  withFiniteAB_eq_next.2 ⟨⟨hA, hB⟩, rfl⟩

theorem smpRun_cons {x : F × F} (hx : isFinite x.1 = true ∧ isFinite x.2 = true)
    (xs : List (F × F)) (s : State) :
    smpRun (x :: xs) s = smpRun xs (sample cfg { s with portA := x.1, portB := x.2 }) := by
  rw [smpRun, exec_smp hx.1 hx.2]

/-- A run of `SMP`s on finite samples completes and takes one unit per sample from each counter, down
to 0 (R126). -/
theorem smpRun_counters {samples : List (F × F)}
    (h : ∀ x ∈ samples, isFinite x.1 = true ∧ isFinite x.2 = true) (s : State) :
    ∃ t, smpRun samples s = .next t ∧ t.fadeRemaining = s.fadeRemaining - samples.length ∧
      t.warmupRemaining = s.warmupRemaining - samples.length := by
  induction samples generalizing s with
  | nil => exact ⟨s, rfl, rfl, rfl⟩
  | cons x xs ih =>
    obtain ⟨hx, hxs⟩ := List.forall_mem_cons.1 h
    obtain ⟨t, hrun, hfade, hwarmup⟩ := ih hxs (sample cfg { s with portA := x.1, portB := x.2 })
    refine ⟨t, (smpRun_cons hx xs s).trans hrun, ?_, ?_⟩
    · rw [hfade, sample_fadeRemaining, List.length_cons, Nat.sub_sub, Nat.add_comm]
    · rw [hwarmup, sample_warmupRemaining, List.length_cons, Nat.sub_sub, Nat.add_comm]

/-- Settles O34: the run gives the counters, and the counters the gains. -/
theorem rampsRunDown : Obligations.RampsRunDown := by
  intro samples s hfinite
  obtain ⟨hfadeLen, hwarmupLen⟩ := rampLength_of_wellFormed Config.machine.wellFormed
  obtain ⟨t, hrun, hfade, hwarmup⟩ := smpRun_counters hfinite s
  have hgf : fadeGain cfg t = rampGain (s.fadeRemaining - samples.length) cfg.fadeLen :=
    congrArg (rampGain · cfg.fadeLen) hfade
  have hgw : warmupGain cfg t = rampGain (s.warmupRemaining - samples.length) cfg.warmupLen :=
    congrArg (rampGain · cfg.warmupLen) hwarmup
  refine ⟨t, hrun, hfade, hwarmup, hgf, hgw, fun harm => ?_, fun harm => ?_⟩
  · rw [hgf]
    exact rampGain_of_armed hfadeLen harm samples.length
  · rw [hgw]
    exact rampGain_of_armed hwarmupLen harm samples.length

end Sys2Proof.Machine

/-! PROOFS of the family `42_tap_tempo`: what `TAPU` writes at a rising edge, at a falling edge and at
none, and how `BTNU` leaves the delay bank. -/

namespace Sys2Proof.Machine

/-! ### One `TAPU` -/

/-- A rising edge (R136): the gate flag is 0 and the gate input above `TAP_HIGH`. -/
def tapRising (c : Params) (s : State) : Bool := !s.gate && fgt s.portA c.tapHigh

/-- A falling edge (R136): the gate flag is 1 and the gate input below `TAP_LOW`. -/
def tapFalling (c : Params) (s : State) : Bool := s.gate && flt s.portA c.tapLow

/-- This rising edge has one before it on record, at an interval that is accepted (R136, R138). -/
def tapAccepts (c : Params) (s : State) : Bool :=
  tapRising c s && s.hasEdge && intervalAccepted (elapsed s.portT s.lastTapTime)

theorem tapAccepts_of_rising {c : Params} {s : State} (h : tapRising c s = true) :
    tapAccepts c s = (s.hasEdge && intervalAccepted (elapsed s.portT s.lastTapTime)) := by
  simp [tapAccepts, h]

theorem tapAccepts_of_not_rising {c : Params} {s : State} (h : tapRising c s = false) :
    tapAccepts c s = false := by
  simp [tapAccepts, h]

/-- What a rising edge writes: measure from the edge on record, and record this one (R136). -/
theorem tapRise_eq {c : Params} {s : State} (h : tapRising c s = true) :
    tapRise c s = { s with
      gate := true
      hasEdge := true
      lastTapTime := s.portT
      est :=
        if tapAccepts c s then msToSamples c (fofNat (elapsed s.portT s.lastTapTime)) else s.est
      armed := tapAccepts c s || s.armed } := by
  rw [tapRise, ← tapAccepts_of_rising h]
  cases tapAccepts c s <;> simp

/-- The expiry test only ever clears `armed` (R136). -/
theorem tapExpire_eq (s : State) :
    tapExpire s = { s with
      armed := s.armed && !decide (tapExpireMs < elapsed s.portT s.lastTapTime) } := by
  unfold tapExpire
  generalize decide (tapExpireMs < elapsed s.portT s.lastTapTime) = old
  split
  case isTrue h => simp [(Bool.and_eq_true_iff.1 h).2]
  case isFalse h =>
    have hkeep : (s.armed && !old) = s.armed := by simpa using h
    rw [hkeep]

/-- No time has passed since the edge just recorded, so the expiry test keeps `armed` (R136). -/
theorem tapExpire_of_just_tapped {s : State} (h : s.lastTapTime = s.portT) : tapExpire s = s := by
  simp [tapExpire, h, elapsed]

theorem tapEdge_of_rising {c : Params} {s : State} (h : tapRising c s = true) :
    tapEdge c s = tapRise c s := if_pos h

theorem tapEdge_of_falling {c : Params} {s : State} (hr : tapRising c s = false)
    (hf : tapFalling c s = true) : tapEdge c s = { s with gate := false } :=
  (if_neg (Bool.eq_false_iff.1 hr)).trans (if_pos hf)

theorem tapEdge_of_no_edge {c : Params} {s : State} (hr : tapRising c s = false)
    (hf : tapFalling c s = false) : tapEdge c s = s :=
  (if_neg (Bool.eq_false_iff.1 hr)).trans (if_neg (Bool.eq_false_iff.1 hf))

/-- One `TAPU` in the delay bank, field by field (R136). -/
theorem tapUpdate_of_delayBank {c : Params} {s : State} (h : s.bank = c.delayBank) :
    tapUpdate c s = { s with
      gate := tapRising c s || (s.gate && !tapFalling c s)
      hasEdge := tapRising c s || s.hasEdge
      lastTapTime := if tapRising c s then s.portT else s.lastTapTime
      est :=
        if tapAccepts c s then msToSamples c (fofNat (elapsed s.portT s.lastTapTime)) else s.est
      armed :=
        if tapRising c s then tapAccepts c s || s.armed
        else s.armed && !decide (tapExpireMs < elapsed s.portT s.lastTapTime) } := by
  rw [tapUpdate, if_pos h]
  cases hr : tapRising c s with
  | true =>
    have hnow : (tapRise c s).lastTapTime = (tapRise c s).portT := by rw [tapRise_eq hr]
    rw [tapEdge_of_rising hr, tapExpire_of_just_tapped hnow, tapRise_eq hr]
    simp
  | false =>
    have hacc := tapAccepts_of_not_rising hr
    cases hf : tapFalling c s with
    | true => simp [tapEdge_of_falling hr hf, tapExpire_eq, hacc]
    | false => simp [tapEdge_of_no_edge hr hf, tapExpire_eq, hacc]

theorem exec_tapu {s : State} (h : isFinite s.portA = true) :
    exec .tapu s = .next (tapUpdate cfg s) :=
  withFiniteA_eq_next.2 ⟨h, rfl⟩

/-- Settles O26: the state written out is that of `tapUpdate`, inside the delay bank and outside. -/
theorem tapuUpdatesEstimator : Obligations.TapuUpdatesEstimator := by
  refine ⟨decode_eq_ok.2 rfl, fun s hfinite => ?_⟩
  dsimp only
  rw [exec_tapu hfinite]
  split
  case isTrue hbank => exact congrArg _ (tapUpdate_of_delayBank hbank)
  case isFalse hbank => exact congrArg _ (if_neg hbank)

/-! ### Leaving the delay bank -/

theorem longAtBank_armed_of_leaving {c : Params} {s : State} (hin : s.bank = c.delayBank)
    (hout : (longAtBank c s).bank ≠ c.delayBank) : (longAtBank c s).armed = false :=
  if_pos ⟨hin, hout⟩

/-- Only a long press while the banks are browsed writes the bank (R167). -/
theorem btnUpdate_bank_cases (c : Params) (s : State) :
    (btnUpdate c s).bank = s.bank ∨
      btnUpdate c s = { longAtBank c (btnPoll s).1 with pchg := some true } := by
  obtain ⟨-, e⟩ | ⟨-, -, e⟩ | ⟨-, -, e⟩ | ⟨-, -, e⟩ | ⟨-, -, e⟩ := btnUpdate_cases c s
  case inr.inr.inr.inl => exact .inr e
  all_goals exact .inl (by simp [e])

/-- A `BTNU` that leaves the delay bank clears `armed` (R141). -/
theorem btnUpdate_armed_of_leaving {c : Params} {s : State} (hin : s.bank = c.delayBank)
    (hout : (btnUpdate c s).bank ≠ c.delayBank) : (btnUpdate c s).armed = false := by
  obtain hkeep | e := btnUpdate_bank_cases c s
  · exact absurd (hkeep.trans hin) hout
  · rw [e] at hout ⊢
    exact longAtBank_armed_of_leaving (by simpa using hin) hout

/-- Settles O27: `BTNU` writes no other register of the estimator. -/
theorem leavingDelayBankDisarms : Obligations.LeavingDelayBankDisarms := by
  intro s t hexec hin hout
  obtain ⟨-, rfl⟩ := exec_eq_next.1 hexec
  exact ⟨btnUpdate_armed_of_leaving hin hout, by simp [effect]⟩

end Sys2Proof.Machine

/-! PROOFS of the family `43_bank_patch`: what one poll of the button writes and raises, how `BTNU`
moves the selector, and that a press raises one event. -/

namespace Sys2Proof.Machine

/-! ### One poll of the button -/

/-- The raw level is accepted (R156): seen before, other than the stable level, and unchanged for the
debounce time. -/
def btnAccepts (s : State) : Bool :=
  s.portL == s.btnRawPrev && s.portL != s.btnStable &&
    decide (debounceMs ≤ elapsed s.portT s.btnTChange)

/-- The button is stably down, and pressed for the time of a long press (R156 step 3). -/
def btnHeldLong (s : State) : Bool :=
  s.btnStable && decide (longMs ≤ elapsed s.portT s.btnTPress)

theorem withBtnRawPrev_self {s : State} {l : Bool} (h : l = s.btnRawPrev) :
    { s with btnRawPrev := l } = s := by rw [h]

/-- A level that did not change is written over itself (R156 step 1). -/
theorem btnTrack_eq (s : State) :
    btnTrack s = { s with
      btnRawPrev := s.portL
      btnTChange := if s.portL = s.btnRawPrev then s.btnTChange else s.portT } := by
  unfold btnTrack
  by_cases h : s.portL = s.btnRawPrev
  · rw [if_neg (by simp [h]), if_pos h]
    exact (withBtnRawPrev_self h).symm
  · simp [h]

/-- A level that changed in this very poll is 0 ms old, so it is not accepted (R158 a). -/
theorem btnTrack_accepts (s : State) :
    ((btnTrack s).btnRawPrev != (btnTrack s).btnStable &&
      decide (debounceMs ≤ elapsed (btnTrack s).portT (btnTrack s).btnTChange)) = btnAccepts s := by
  rw [btnTrack_eq, btnAccepts]
  by_cases h : s.portL = s.btnRawPrev
  · simp [h]
  · simp [h, elapsed, debounceMs]

theorem btnDebounce_of_press {s : State} (hacc : btnAccepts s = true) (hl : s.portL = true) :
    btnDebounce (btnTrack s) =
      ({ btnTrack s with
          btnStable := true, tInteract := s.portT, btnTPress := s.portT, btnLongDone := false },
        .none) := by
  rw [btnDebounce, btnTrack_accepts, if_pos hacc]
  simp [btnTrack_eq, hl]

theorem btnDebounce_of_release {s : State} (hacc : btnAccepts s = true) (hl : s.portL = false) :
    btnDebounce (btnTrack s) =
      ({ btnTrack s with btnStable := false, tInteract := s.portT }, releaseEvent s) := by
  rw [btnDebounce, btnTrack_accepts, if_pos hacc]
  simp [btnTrack_eq, hl, releaseEvent]

theorem btnDebounce_of_not_accepts {s : State} (hacc : btnAccepts s = false) :
    btnDebounce (btnTrack s) = (btnTrack s, .none) := by
  rw [btnDebounce, btnTrack_accepts, if_neg (Bool.eq_false_iff.1 hacc)]

/-- An accepted press starts its own clock, so it raises no event (R156). -/
theorem btnPoll_of_press {s : State} (hacc : btnAccepts s = true) (hl : s.portL = true) :
    btnPoll s =
      ({ btnTrack s with
          btnStable := true, tInteract := s.portT, btnTPress := s.portT, btnLongDone := false },
        .none) := by
  rw [btnPoll, btnDebounce_of_press hacc hl]
  simp [btnHold, elapsed, longMs]

/-- An accepted release raises what it is classified as (R157 e). -/
theorem btnPoll_of_release {s : State} (hacc : btnAccepts s = true) (hl : s.portL = false) :
    btnPoll s =
      ({ btnTrack s with btnStable := false, tInteract := s.portT }, releaseEvent s) := by
  rw [btnPoll, btnDebounce_of_release hacc hl]
  simp [btnHold]

/-- With no level accepted, the poll raises the long press when it is due and not yet raised
(R157 d). -/
theorem btnPoll_of_not_accepts {s : State} (hacc : btnAccepts s = false) :
    btnPoll s =
      if btnHeldLong s && !s.btnLongDone then
        ({ btnTrack s with btnLongDone := true }, .long)
      else (btnTrack s, .none) := by
  rw [btnPoll, btnDebounce_of_not_accepts hacc]
  simp [btnHold, btnHeldLong, Bool.and_right_comm]

/-- The button registers that the poll leaves, in closed form (R156 steps 1 to 3). -/
theorem btnPoll_buttons (s : State) :
    (btnPoll s).1.btnRawPrev = s.portL ∧
    (btnPoll s).1.btnTChange = (if s.portL = s.btnRawPrev then s.btnTChange else s.portT) ∧
    (btnPoll s).1.btnStable = (if btnAccepts s then s.portL else s.btnStable) ∧
    (btnPoll s).1.tInteract = (if btnAccepts s then s.portT else s.tInteract) ∧
    (btnPoll s).1.btnTPress = (if btnAccepts s && s.portL then s.portT else s.btnTPress) ∧
    (btnPoll s).1.btnLongDone =
      (if btnAccepts s then !s.portL && s.btnLongDone else s.btnLongDone || btnHeldLong s) := by
  cases hacc : btnAccepts s with
  | true =>
    cases hl : s.portL with
    | true => simp [btnPoll_of_press hacc hl, btnTrack_eq, hl]
    | false => simp [btnPoll_of_release hacc hl, btnTrack_eq, hl]
  | false =>
    cases hheld : btnHeldLong s <;> cases hdone : s.btnLongDone <;>
      simp [btnPoll_of_not_accepts hacc, btnTrack_eq, hheld, hdone]

/-- The event the poll raises (R157, R158). -/
theorem btnPoll_event (s : State) :
    (btnPoll s).2 =
      if s.btnLongDone || (btnAccepts s && s.portL) then .none
      else if btnAccepts s then
        (if elapsed s.portT s.btnTPress < longMs then .short else .long)
      else if btnHeldLong s then .long
      else .none := by
  cases hacc : btnAccepts s with
  | true =>
    cases hl : s.portL with
    | true => simp [btnPoll_of_press hacc hl]
    | false => simp [btnPoll_of_release hacc hl, releaseEvent]
  | false =>
    cases hheld : btnHeldLong s <;> cases hdone : s.btnLongDone <;>
      simp [btnPoll_of_not_accepts hacc, hheld, hdone]

/-- Settles O29: the statement writes out `btnAccepts` and `btnHeldLong`. -/
theorem btnuEventRaised : Obligations.BtnuEventRaised := btnPoll_event

/-! ### One `BTNU` -/

theorem exec_btnu (s : State) : exec .btnu s = .next (btnUpdate cfg s) := rfl

/-- The event moves no button register (R161): they are what the poll left. -/
theorem btnUpdate_buttons (c : Params) (s : State) :
    (btnUpdate c s).btnRawPrev = (btnPoll s).1.btnRawPrev ∧
    (btnUpdate c s).btnTChange = (btnPoll s).1.btnTChange ∧
    (btnUpdate c s).btnStable = (btnPoll s).1.btnStable ∧
    (btnUpdate c s).tInteract = (btnPoll s).1.tInteract ∧
    (btnUpdate c s).btnTPress = (btnPoll s).1.btnTPress ∧
    (btnUpdate c s).btnLongDone = (btnPoll s).1.btnLongDone := by
  obtain ⟨-, e⟩ | ⟨-, -, e⟩ | ⟨-, -, e⟩ | ⟨-, -, e⟩ | ⟨-, -, e⟩ := btnUpdate_cases c s <;> simp [e]

/-- Settles O28: the poll gives the button registers, and the frame of `BTNU` the others. -/
theorem btnuButtonRegisters : Obligations.BtnuButtonRegisters := by
  intro s
  obtain ⟨hraw, hchange, hstable, hinteract, hpress, hdone⟩ := btnUpdate_buttons cfg s
  obtain ⟨praw, pchange, pstable, pinteract, ppress, pdone⟩ := btnPoll_buttons s
  refine ⟨btnUpdate cfg s, exec_btnu s, hraw.trans praw, hchange.trans pchange,
    hstable.trans pstable, hinteract.trans pinteract, hpress.trans ppress, hdone.trans pdone, ?_⟩
  simp [audioRegs, inputPorts, scheduleState]

/-! ### The selector -/

theorem otherBank_eq (k : Bank) : otherBank k = if k = .a then .b else .a := by
  cases k <;> rfl

/-- Settles O30: the five cases of `BTNU` are the rows of the table. -/
theorem btnuTransitionTable : Obligations.BtnuTransitionTable := by
  intro s
  refine ⟨btnUpdate cfg s, exec_btnu s, ?_⟩
  obtain ⟨hev, e⟩ | ⟨hev, hlevel, e⟩ | ⟨hev, hlevel, e⟩ | ⟨hev, hlevel, e⟩ | ⟨hev, hlevel, e⟩ :=
    btnUpdate_cases cfg s
  case inl => simp [hev, e, sharedRegs]
  case inr.inl => simp [hev, hlevel, e, sharedRegs, shortAtBank, otherBank_eq]
  case inr.inr.inl =>
    simp [hev, hlevel, e, shortAtPatch, BitVec.toNat_add]
  case inr.inr.inr.inl => simp [hev, hlevel, e, longAtBank]
  case inr.inr.inr.inr => simp [hev, hlevel, e, sharedRegs, longAtPatch]

/-- What an operation does to the committed bank and index (R168 b): nothing, a reset, the commit of
the previewed bank, or the next patch of the same bank. -/
theorem effect_selector_cases (i : Instr) (s : State) :
    ((effect i s).bank = s.bank ∧ (effect i s).index = s.index) ∨ i = .rst ∨
      (i = .btnu ∧ s.level = .bank ∧ (btnPoll s).2 = .long) ∨
      ((effect i s).bank = s.bank ∧ i = .btnu ∧ s.level = .patch ∧ (btnPoll s).2 = .short) := by
  cases i with
  | rst => exact .inr (.inl rfl)
  | btnu =>
    obtain ⟨-, e⟩ | ⟨-, -, e⟩ | ⟨hev, hlevel, e⟩ | ⟨hev, hlevel, -⟩ | ⟨-, -, e⟩ :=
      btnUpdate_cases cfg s
    case inr.inr.inl => exact .inr (.inr (.inr ⟨by simp [effect, e], rfl, hlevel, hev⟩))
    case inr.inr.inr.inl => exact .inr (.inr (.inl ⟨rfl, hlevel, hev⟩))
    all_goals exact .inl (by simp [effect, e])
  | nop | potsm0 | potsm1 | potsm2 | cvsm1 | cvsm2 | tko0 | tko1 | tko2 | tapu | blk | smp =>
    exact .inl (by simp [effect])

/-- Settles O32, by the four things an operation can do to bank and index. -/
theorem onlyEventsMoveTheSelector : Obligations.OnlyEventsMoveTheSelector := by
  intro i s t hexec
  obtain ⟨-, rfl⟩ := exec_eq_next.1 hexec
  obtain ⟨hbank, hindex⟩ | hrst | hlong | ⟨hbank, hshort⟩ := effect_selector_cases i s
  · exact ⟨absurd hbank, absurd hindex⟩
  · exact ⟨fun _ => .inl hrst, fun _ => .inl hrst⟩
  · exact ⟨fun _ => .inr hlong, fun _ => .inr (.inl hlong)⟩
  · exact ⟨absurd hbank, fun _ => .inr (.inr hshort)⟩

/-! ### One event per press -/

/-- The events a press still has to raise: none once the long press was raised (R159). -/
def eventsDue (s : State) : Nat := if s.btnLongDone then 0 else 1

/-- The number of events a poll raised. -/
def eventCount (e : ButtonEvent) : Nat := if e != .none then 1 else 0

/-- A level is accepted only when it differs from the stable one (R156). -/
theorem btnAccepts_of_eq_stable {s : State} (h : s.portL = s.btnStable) : btnAccepts s = false := by
  simp [btnAccepts, h]

/-- With the button stably down, a poll leaves it down unless it accepts the release (R156). -/
theorem btnUpdate_btnStable_of_down {s : State} (c : Params) (hdown : s.btnStable = true) :
    (btnUpdate c s).btnStable = !btnAccepts s := by
  obtain ⟨-, -, hstable, -⟩ := btnUpdate_buttons c s
  obtain ⟨-, -, pstable, -⟩ := btnPoll_buttons s
  rw [hstable, pstable]
  cases hl : s.portL with
  | true => simp [btnAccepts_of_eq_stable (hl.trans hdown.symm), hdown]
  | false => cases btnAccepts s <;> simp [hdown]

/-- A poll that finds the button down and leaves it down raises the event it takes off the due ones
(R157 d). -/
theorem eventCount_add_eventsDue {s : State} (c : Params) (hdown : s.btnStable = true)
    (hstays : (btnUpdate c s).btnStable = true) :
    eventCount (btnPoll s).2 + eventsDue (btnUpdate c s) = eventsDue s := by
  have hacc : btnAccepts s = false := by simpa [btnUpdate_btnStable_of_down c hdown] using hstays
  obtain ⟨-, -, -, -, -, hdone⟩ := btnUpdate_buttons c s
  obtain ⟨-, -, -, -, -, pdone⟩ := btnPoll_buttons s
  rw [btnPoll_event, eventsDue, hdone, pdone, eventsDue, hacc]
  cases s.btnLongDone <;> cases btnHeldLong s <;> rfl

/-- The poll that accepts the release raises all that is still due (R157 e). -/
theorem eventCount_of_release {s : State} (c : Params) (hdown : s.btnStable = true)
    (hup : (btnUpdate c s).btnStable = false) : eventCount (btnPoll s).2 = eventsDue s := by
  have hacc : btnAccepts s = true := by simpa [btnUpdate_btnStable_of_down c hdown] using hup
  have hl : s.portL = false := Bool.eq_false_iff.2 fun hl => by
    simp [btnAccepts_of_eq_stable (hl.trans hdown.symm)] at hacc
  rw [btnPoll_of_release hacc hl, releaseEvent, eventsDue]
  cases s.btnLongDone with
  | true => rfl
  | false => by_cases hshort : elapsed s.portT s.btnTPress < longMs <;> simp [hshort, eventCount]

/-- A poll's time and raw level on the ports (R159). -/
def withPoll (x : Time × Bool) (s : State) : State := { s with portT := x.1, portL := x.2 }

theorem btnRun_cons (x : Time × Bool) (xs : List (Time × Bool)) (s : State) :
    btnRun (x :: xs) s =
      ((btnPoll (withPoll x s)).2, btnUpdate cfg (withPoll x s)) ::
        btnRun xs (btnUpdate cfg (withPoll x s)) := rfl

/-- The last poll leaves the button up, and no poll before it does: the run ends where the release is
accepted (R159). -/
def EndsAtRelease (run : List (ButtonEvent × State)) : Prop :=
  (∀ r ∈ run.dropLast, r.2.btnStable = true) ∧
    ∃ r, run.getLast? = some r ∧ r.2.btnStable = false

theorem not_endsAtRelease_nil : ¬ EndsAtRelease [] := by simp [EndsAtRelease]

/-- The run is over at the first poll that leaves the button up. -/
theorem endsAtRelease_cons {r : ButtonEvent × State} {run : List (ButtonEvent × State)} :
    EndsAtRelease (r :: run) ↔
      (r.2.btnStable = false ∧ run = []) ∨ (r.2.btnStable = true ∧ EndsAtRelease run) := by
  cases run with
  | nil => simp [EndsAtRelease]
  | cons r' run => simp [EndsAtRelease, and_assoc]

/-- A held button has raised, by its release, exactly the events that were due (R159). -/
theorem btnRun_countP_events {polls : List (Time × Bool)} : ∀ {s : State}, s.btnStable = true →
    EndsAtRelease (btnRun polls s) →
    (btnRun polls s).countP (fun r => r.1 != .none) = eventsDue s := by
  induction polls with
  | nil => exact fun _ hends => absurd hends not_endsAtRelease_nil
  | cons x xs ih =>
    intro s hdown hends
    rw [btnRun_cons] at hends ⊢
    obtain ⟨hup, hover⟩ | ⟨hstays, hends⟩ := endsAtRelease_cons.1 hends
    · rw [hover, List.countP_singleton]
      exact eventCount_of_release (s := withPoll x s) cfg hdown hup
    · rw [List.countP_cons, ih hstays hends, Nat.add_comm]
      exact eventCount_add_eventsDue (s := withPoll x s) cfg hdown hstays

/-- Settles O31: right after an accepted press one event is due. -/
theorem oneEventPerPress : Obligations.OneEventPerPress := by
  intro polls s hdown hfresh hheld hrelease
  rw [← List.countP_eq_length_filter, btnRun_countP_events hdown ⟨hheld, hrelease⟩]
  simp [eventsDue, hfresh]

end Sys2Proof.Machine

/-! PROOFS of the family `44_audio_frame`: the table entries and the native parameters of stage 1,
the ends of the two maps and of the mix, and what `BLK` and `SMP` write. -/

namespace Sys2Proof.Machine

/-! ### The entries of a well-formed table -/

theorem mem_allPatches (p : PatchNo) : p ∈ allPatches := by
  revert p
  decide

theorem mem_allSlots (j : Slot) : j ∈ allSlots := by cases j <;> decide

theorem lut_wellFormed {c : Params} (h : c.WellFormed) (p : PatchNo) (j : Slot) :
    (c.lut p j).wellFormed = true :=
  List.all_eq_true.1 (List.all_eq_true.1 h.lutEntries p (mem_allPatches p)) j (mem_allSlots j)

/-- What stage 1 needs of an entry in use (R93): a control drives it, and its safe range is one. -/
theorem descriptor_of_valid {d : Descriptor} (hwf : d.wellFormed = true) (hv : descValid d = true) :
    (descSrc d).isSome = true ∧ fle d.cmin d.cmax = true := by
  simp only [Descriptor.wellFormed, hv, Bool.not_true, Bool.false_or, Bool.and_eq_true] at hwf
  obtain ⟨-, ⟨⟨⟨⟨hsrc, -⟩, hrange⟩, -⟩, -⟩, -⟩ := hwf
  exact ⟨hsrc, hrange⟩

/-! ### Native parameters -/

/-- The slot's table entry is that of the patch in the snapshot (R187). -/
theorem slotOf_eq (c : Params) (s : State) (j : Slot) :
    slotOf c s j =
      slotParam c (c.lut (patchNo s.aBank s.aIndex) j) s.aCtl s.aArmed s.aEst (s.dl.get j) := rfl

theorem natParams_get (c : Params) (s : State) (j : Slot) :
    (natParams c s).get j = (slotOf c s j).nat := perSlot_get_ofFn _ j

theorem nextDl_get (c : Params) (s : State) (j : Slot) :
    (nextDl c s).get j = (slotOf c s j).dl := perSlot_get_ofFn _ j

/-- Settles O39: the value is clamped last, and the safe range of an entry in use is one. -/
theorem nativeParametersInSafeRange : Obligations.NativeParametersInSafeRange := by
  intro s j hv
  obtain ⟨-, hrange⟩ := descriptor_of_valid (lut_wellFormed Config.machine.wellFormed _ j) hv
  obtain ⟨x, hx⟩ := slotParam_nat cfg _ s.aCtl s.aArmed s.aEst (s.dl.get j) hv
  rw [natParams_get, slotOf_eq, hx]
  exact clamp_cases hrange

/-! ### Stage 1 of one slot -/

/-- The channel a 2-bit field names, unless it is the reserved 3 (R88). -/
theorem chanOfBits_eq_some : ∀ b : BitVec 2, (chanOfBits b).isSome = true →
    chanOfBits b = some (if b = 0 then .mix else if b = 1 then .decay else .tone) := by
  decide

/-- The control that drives an entry in use, by its header bits 2:1 (R92, R190). -/
theorem driveOf_of_isSome {d : Descriptor} (h : (descSrc d).isSome = true) (ctl : PerChan F) :
    driveOf ctl d =
      clamp (if d.h.extractLsb' 1 2 = 0 then ctl.mix
        else if d.h.extractLsb' 1 2 = 1 then ctl.decay else ctl.tone) fZero fOne := by
  rw [driveOf, descSrc, chanOfBits_eq_some _ h]
  split
  next ch hch =>
    obtain rfl := Option.some.inj hch
    split
    · rfl
    · split <;> rfl
  next hnone => cases hnone

theorem mapped_eq (c : Params) (t : F) (d : Descriptor) :
    mapped c t d = if d.h.getLsbD 3 = false then lin t d.lo d.hi else expg c t d.lo d.hi := by
  unfold mapped descKind
  cases d.h.getLsbD 3 <;> simp

theorem descCls_eq_delay (d : Descriptor) : descCls d = .delay ↔ d.h.extractLsb' 4 2 = 2 := by
  unfold descCls
  generalize d.h.extractLsb' 4 2 = b
  revert b
  decide

theorem delayTarget_eq (c : Params) (d : Descriptor) (v : F) (armed : Bool) (est : F) :
    delayTarget c d v armed est =
      clamp (if d.h.getLsbD 6 = true ∧ armed = true then est else msToSamples c v)
        d.cmin d.cmax := by
  simp [delayTarget, descTap]

/-- An unused slot yields 0.0 and keeps its smoother (R190). -/
theorem slotParam_of_unused {d : Descriptor} (hv : descValid d = false) (c : Params)
    (ctl : PerChan F) (armed : Bool) (est dl : F) :
    slotParam c d ctl armed est dl = ⟨fZero, dl⟩ := by
  simp [slotParam, hv]

/-- A delay glides one step toward its target and is clamped again (R199, R200). -/
theorem slotParam_of_delay {d : Descriptor} (hv : descValid d = true) (hcls : descCls d = .delay)
    (c : Params) (ctl : PerChan F) (armed : Bool) (est dl : F) :
    slotParam c d ctl armed est dl =
      let dl' := onePole dl c.dlyBeta (delayTarget c d (mapped c (driveOf ctl d) d) armed est)
      ⟨clamp dl' d.cmin d.cmax, dl'⟩ := by
  simp [slotParam, hv, hcls]

/-- A slot of another class is mapped and clamped (R196). -/
theorem slotParam_of_not_delay {d : Descriptor} (hv : descValid d = true)
    (hcls : descCls d ≠ .delay) (c : Params) (ctl : PerChan F) (armed : Bool) (est dl : F) :
    slotParam c d ctl armed est dl =
      ⟨clamp (mapped c (driveOf ctl d) d) d.cmin d.cmax, dl⟩ := by
  rw [slotParam, if_pos hv]
  split
  next h => exact absurd h hcls
  next => rfl

/-- Settles O38: a slot is unused, a delay, or of another class. -/
theorem slotParameters : Obligations.SlotParameters := by
  intro s j d src t linear v req tgt dl dl'
  have hslot : slotOf cfg s j = slotParam cfg d s.aCtl s.aArmed s.aEst dl := slotOf_eq cfg s j
  rw [natParams_get, nextDl_get, hslot]
  have hvalid : descValid d = d.h.getLsbD 0 := rfl
  cases hv : d.h.getLsbD 0 with
  | false => simp [slotParam_of_unused (hvalid.trans hv), fZero]
  | true =>
    obtain ⟨hsrc, -⟩ :=
      descriptor_of_valid (lut_wellFormed Config.machine.wellFormed _ j) (hvalid.trans hv)
    have hmapped : mapped cfg (driveOf s.aCtl d) d = v := by
      rw [mapped_eq, driveOf_of_isSome hsrc]
      rfl
    by_cases hcls : d.h.extractLsb' 4 2 = 2
    · have htgt : delayTarget cfg d v s.aArmed s.aEst = tgt := delayTarget_eq cfg d v _ _
      rw [slotParam_of_delay (hvalid.trans hv) ((descCls_eq_delay d).2 hcls), hmapped, htgt]
      simp only [hcls, Bool.true_eq_false, if_true, if_false, and_self]
      exact ⟨rfl, rfl⟩
    · rw [slotParam_of_not_delay (hvalid.trans hv) (mt (descCls_eq_delay d).1 hcls), hmapped]
      simp only [hcls, Bool.true_eq_false, if_false, and_false, and_self]

/-! ### Arithmetic with 0.0 and 1.0 -/

/-- A number times 1.0 is that number bit for bit, the sign of a zero included. -/
theorem fmul_fOne {x : F} (hx : isFinite x = true) : fmul x fOne = x := by
  have hone : absUnits fOne = oneUnits := by decide +kernel
  have hmag : roundMag (absUnits x * oneUnits) oneUnits = fmag x :=
    roundMag_exact oneUnits_pos ((isFinite_iff x).1 hx).le
  have hneg : (isNeg x != isNeg fOne) = isNeg x := Bool.xor_false _
  simp only [fmul, isNaN_of_isFinite hx, isNaN_of_isFinite isFinite_fOne, isInf_of_isFinite hx,
    isInf_of_isFinite isFinite_fOne, Bool.or_self, Bool.false_eq_true, if_false, hone, hmag, hneg,
    pack_self]

/-- A result whose exact value is that of a finite number is finite and has that value. -/
theorem RoundsTo.isFinite_and_exact {r z : F} {v : Int} {d : Nat} (h : RoundsTo r v d)
    (hz : isFinite z = true) (hv : v = units z * d) :
    isFinite r = true ∧ units r = units z := by
  have hu := h.exact (isNaN_of_isFinite hz) hv
  exact ⟨isFinite_of_between hz hz hu.ge hu.le, hu⟩

/-- 1.0 times a number is that number by value. -/
theorem fOne_fmul {x : F} (hx : isFinite x = true) :
    isFinite (fmul fOne x) = true ∧ units (fmul fOne x) = units x :=
  (fmul_roundsTo isFinite_fOne hx).isFinite_and_exact hx (by rw [units_fOne, mul_comm])

/-- 0.0 times a number is a zero of some sign. -/
theorem fZero_fmul {x : F} (hx : isFinite x = true) :
    isFinite (fmul fZero x) = true ∧ units (fmul fZero x) = 0 := by
  rw [← units_fZero]
  exact (fmul_roundsTo isFinite_fZero hx).isFinite_and_exact isFinite_fZero (by simp [units_fZero])

/-- A sum whose exact value is that of a number compares equal to it. -/
theorem fadd_feq {x y z : F} (hx : isFinite x = true) (hy : isFinite y = true)
    (hz : isFinite z = true) (h : units x + units y = units z) : feq (fadd x y) z = true := by
  have hround := fadd_roundsTo hx hy
  have hzn := isNaN_of_isFinite hz
  exact (feq_iff hround.isNaN hzn).2 (hround.exact hzn (by simpa using h))

theorem fsub_fOne_fZero : fsub fOne fZero = fOne := by decide +kernel

theorem fsub_fOne_fOne : fsub fOne fOne = fZero := by decide +kernel

/-! ### The ends of the mix and of the maps -/

/-- Settles O41: at either end one summand is a zero and the other is taken times 1.0. -/
theorem mixEndsAreDryAndWet : Obligations.MixEndsAreDryAndWet := by
  intro gf dry wet hdry hwet
  obtain ⟨hdry0, udry0⟩ := fZero_fmul hdry
  obtain ⟨hdry1, udry1⟩ := fOne_fmul hdry
  obtain ⟨hwet0, uwet0⟩ := fZero_fmul hwet
  obtain ⟨hwet1, uwet1⟩ := fOne_fmul hwet
  constructor
  · rw [mixDown, fsub_fOne_fZero]
    exact fadd_feq hdry1 hwet0 hdry (by omega)
  · rw [mixDown, fsub_fOne_fOne]
    exact fadd_feq hdry0 hwet1 hwet (by omega)

theorem lin_fZero_feq {lo hi : F} (hlo : isFinite lo = true)
    (hspan : isFinite (fsub hi lo) = true) : feq (lin fZero lo hi) lo = true := by
  obtain ⟨hzero, uzero⟩ := fZero_fmul hspan
  exact fadd_feq hlo hzero hlo (by omega)

/-- At control 0.0 the power is 1.0 (R15). -/
theorem expi_fZero {c : Params} (h : c.WellFormed) {lo hi : F} (hlo : isFinite lo = true)
    (hratio : isPosFinite (fdiv hi lo) = true) : expi c fZero lo hi = lo := by
  rw [expi, h.powf.at_zero _ hratio, fmul_fOne hlo]

/-- Settles O42, map by map. -/
theorem mapsStartAtLo : Obligations.MapsStartAtLo := fun _ _ hlo =>
  ⟨lin_fZero_feq hlo, expi_fZero Config.machine.wellFormed hlo⟩

/-! ### `BLK` and the stages of `SMP` -/

/-- Settles O36: the state written out is that of `latchBlock`. -/
theorem blkLatchesSnapshot : Obligations.BlkLatchesSnapshot :=
  ⟨decode_eq_ok.2 rfl, fun _ => rfl⟩

/-- The countdown stops at 0 (R126). -/
theorem countdown_eq (s : State) :
    countdown s = { s with
      fadeRemaining := if 0 < s.fadeRemaining then s.fadeRemaining - 1 else 0
      warmupRemaining := if 0 < s.warmupRemaining then s.warmupRemaining - 1 else 0 } := by
  have hcount : ∀ n : Nat, n - 1 = if 0 < n then n - 1 else 0 := fun n => by split <;> omega
  rw [countdown, ← hcount, ← hcount]

/-- Settles O37: the stages written out are those of `sample`, the countdown apart. -/
theorem smpStages : Obligations.SmpStages := by
  refine ⟨decode_eq_ok.2 rfl, fun s hA hB => ?_⟩
  rw [exec_smp hA hB, sample, countdown_eq]
  rfl

end Sys2Proof.Machine

/-! PROOFS of the family `45_output_conditioner`: the two results of `SMP` are the low-pass memories,
hard-clamped, and so lie within the output limit. -/

namespace Sys2Proof.Machine

/-! ### The hard clamp -/

/-- Whatever the filters hand over, an infinity included, leaves the clamp within the limit (R233);
only a NaN passes through (R219, U3). -/
theorem hardClamp_inLimit (z : F) : inRangeOrNaN (hardClamp z) outLimitNeg outLimit :=
  clamp_cases (by decide)

theorem outputInLimit_some {x : F} :
    outputInLimit (some x) ↔ inRangeOrNaN x outLimitNeg outLimit := by
  simp [outputInLimit]

/-! ### The results of a sample -/

/-- The conditioner drives each port with its new low-pass memory, clamped on the output only (R233). -/
theorem condition_outputs (c : Params) (yL yR : F) (s : State) :
    (condition c yL yR s).outL = some (hardClamp (condition c yL yR s).lpZ.left) ∧
      (condition c yL yR s).outR = some (hardClamp (condition c yL yR s).lpZ.right) := ⟨rfl, rfl⟩

/-- The countdown after stage 6 touches neither the results nor the filter memory (R126, R187). -/
theorem sample_outputs (c : Params) (s : State) :
    (sample c s).outL = some (hardClamp (sample c s).lpZ.left) ∧
      (sample c s).outR = some (hardClamp (sample c s).lpZ.right) := by
  simpa only [sample, countdown_frame] using condition_outputs c _ _ _

/-- Settles O40: each result is a hard-clamped value. -/
theorem outputsWithinLimit : Obligations.OutputsWithinLimit := by
  intro s hA hB
  obtain ⟨hL, hR⟩ := sample_outputs cfg s
  refine ⟨sample cfg s, exec_smp hA hB, ?_⟩
  rw [hL, hR, outputInLimit_some, outputInLimit_some]
  exact ⟨rfl, rfl, hardClamp_inLimit _, hardClamp_inLimit _⟩

end Sys2Proof.Machine

/-! PROOFS of the family `60_exceptions`: who may issue which operation, which registers an
operation leaves alone, and that a legal program never stops. -/

namespace Sys2Proof.Machine

/-! ### Owners -/

theorem mayIssue_host_iff (i : Instr) : mayIssue .host i = true ↔ i = .nop ∨ i = .rst := by
  cases i <;> decide

theorem mayIssue_audio_iff (i : Instr) :
    mayIssue .audio i = true ↔ i = .nop ∨ i = .blk ∨ i = .smp := by
  cases i <;> decide

theorem mayIssue_control_iff (i : Instr) :
    mayIssue .control i = true ↔
      i = .nop ∨ i = .potsm0 ∨ i = .potsm1 ∨ i = .potsm2 ∨ i = .cvsm1 ∨ i = .cvsm2 ∨ i = .tko0 ∨
        i = .tko1 ∨ i = .tko2 ∨ i = .tapu ∨ i = .btnu := by
  cases i <;> decide

/-- Settles O8: for each agent, its own part of the list is the only one that can hold. -/
theorem ownersOfOperations : Obligations.OwnersOfOperations := by
  intro g i
  cases g with
  | control => simp [mayIssue_control_iff]
  | audio => simp [mayIssue_audio_iff]
  | host => simp [mayIssue_host_iff]

/-! ### What an operation leaves alone -/

/-- No operation writes an operand port or a queue: only presenting and taking an item does (R81,
log 5). -/
theorem effect_ports_schedule (i : Instr) (s : State) :
    inputPorts (effect i s) = inputPorts s ∧ scheduleState (effect i s) = scheduleState s := by
  cases i with
  | tapu | btnu => simp [effect, inputPorts, scheduleState]
  | nop | rst | potsm0 | potsm1 | potsm2 | cvsm1 | cvsm2 | tko0 | tko1 | tko2 | blk | smp =>
    exact ⟨rfl, rfl⟩

/-- The audio agent writes no register of the control domain (R251). -/
theorem effect_controlRegs_of_audio {i : Instr} (hi : mayIssue .audio i = true) (s : State) :
    controlRegs (effect i s) = controlRegs s := by
  obtain rfl | rfl | rfl := (mayIssue_audio_iff i).1 hi <;> rfl

/-- Beside the audio agent's operations only `RST` writes a register of the audio domain (R251). -/
theorem effect_audioRegs_of_control {i : Instr} (hi : mayIssue .control i = true) (s : State) :
    audioRegs (effect i s) = audioRegs s := by
  cases i with
  | rst | blk | smp => cases hi
  | tapu | btnu => simp [effect, audioRegs]
  | nop | potsm0 | potsm1 | potsm2 | cvsm1 | cvsm2 | tko0 | tko1 | tko2 => rfl

/-- Only the commit of `BTNU`, the sample of `SMP` and a reset reach the registers of both domains
(R28). -/
theorem effect_sharedRegs {i : Instr} (hbtnu : i ≠ .btnu) (hsmp : i ≠ .smp) (hrst : i ≠ .rst)
    (s : State) : sharedRegs (effect i s) = sharedRegs s := by
  cases i with
  | btnu => exact absurd rfl hbtnu
  | smp => exact absurd rfl hsmp
  | rst => exact absurd rfl hrst
  | tapu => simp [effect, sharedRegs]
  | nop | potsm0 | potsm1 | potsm2 | cvsm1 | cvsm2 | tko0 | tko1 | tko2 | blk => rfl

/-- Settles O46: an operation that completes leaves its effect. -/
theorem agentsWriteOnlyWhatTheyOwn : Obligations.AgentsWriteOnlyWhatTheyOwn := by
  intro i s t hexec
  obtain ⟨-, rfl⟩ := exec_eq_next.1 hexec
  exact ⟨fun hi => effect_controlRegs_of_audio hi s, fun hi => effect_audioRegs_of_control hi s,
    fun hbtnu hsmp hrst => effect_sharedRegs hbtnu hsmp hrst s, effect_ports_schedule i s⟩

/-! ### Legal programs -/

theorem programLegal_congr {s t : State} (h : scheduleState t = scheduleState s) :
    programLegal t = programLegal s := by
  simp only [scheduleState, ScheduleState.mk.injEq] at h
  obtain ⟨hcontrol, haudio, hhost, -⟩ := h
  simp only [programLegal, hcontrol, haudio, hhost]

/-- A legal command is a word of an operation of its issuer, with finite operands (R84, R252,
R13). -/
theorem commandLegal_iff {g : Agent} {m : Command} :
    commandLegal g m = true ↔
      ∃ i, decode m.cw = .ok i ∧ mayIssue g i = true ∧ operandsFinite i m = true := by
  unfold commandLegal
  cases decode m.cw <;> simp

/-- An item that the step can serve: `commandLegal` or `hostLegal` of what was taken. -/
def requestLegal : Request → Bool
  | .command g m => commandLegal g m
  | .readPub n => decide (n ≤ 5)

/-- Whoever is granted the turn, a legal program presents a legal item, and the rest of it is
legal. -/
theorem takeNext_legal {s s' : State} {r : Request} (hlegal : programLegal s = true)
    (h : takeNext s = some (r, s')) : requestLegal r = true ∧ programLegal s' = true := by
  obtain ⟨g, hg⟩ := takeFrom_of_takeNext h
  obtain ⟨m, q, hq, rfl, rfl⟩ | ⟨m, q, hq, rfl, rfl⟩ | ⟨m, q, hq, rfl, rfl⟩ |
    ⟨n, q, hq, rfl, rfl⟩ := takeFrom_cases hg
  all_goals
    simpa [programLegal, requestLegal, hostLegal, hq, and_assoc, and_left_comm] using hlegal

/-- A legal command completes (R240), and its operation leaves the queues alone. -/
theorem runCommand_completes {g : Agent} {m : Command} (h : commandLegal g m = true) (s : State) :
    ∃ t, runCommand g m s = .next t ∧ scheduleState t = scheduleState s := by
  obtain ⟨i, hdec, hown, hfin⟩ := commandLegal_iff.1 h
  exact ⟨effect i (onPorts m s),
    (runCommand_of_legal hdec hown).trans
      (exec_eq_next.2 ⟨(portsFinite_onPorts i m s).trans hfin, rfl⟩),
    (effect_ports_schedule i (onPorts m s)).2⟩

theorem readPublished_completes {n : Nat} (h : n ≤ 5) (s : State) :
    ∃ t, readPublished n s = .next t ∧ scheduleState t = scheduleState s := by
  obtain ⟨w, hw⟩ := pubWord_of_le s h
  exact ⟨_, readPublished_of_some hw, rfl⟩

/-- One step of a legal program: idle, a command or a read, it completes and the rest stays
legal. -/
theorem step_legal {s : State} (hlegal : programLegal s = true) :
    ∃ t, step s = .next t ∧ programLegal t = true := by
  cases htake : takeNext s with
  | none => exact ⟨undriven s, step_of_takeNext_none htake, hlegal⟩
  | some taken =>
    obtain ⟨r, s'⟩ := taken
    obtain ⟨hr, hrest⟩ := takeNext_legal hlegal htake
    have hserved : ∃ t, step s = .next t ∧ scheduleState t = scheduleState s' := by
      cases r with
      | command g m =>
        rw [step_of_command htake]
        exact runCommand_completes hr s'
      | readPub n =>
        rw [step_of_readPub htake]
        exact readPublished_completes (of_decide_eq_true hr) s'
    obtain ⟨t, hstep, hsched⟩ := hserved
    exact ⟨t, hstep, (programLegal_congr hsched).trans hrest⟩

/-- A machine that steps from every state with the property `P` to another one never stops. -/
theorem run_of_step {M : Host.Core} {P : M.State → Prop}
    (hstep : ∀ s, P s → ∃ t, M.step s = .next t ∧ P t) (k : Nat) :
    ∀ s, P s → ∃ t, M.run k s = .next t ∧ P t := by
  induction k with
  | zero => exact fun s hs => ⟨s, rfl, hs⟩
  | succ k ih =>
    intro s hs
    obtain ⟨t, ht, hPt⟩ := hstep s hs
    simpa only [Host.Core.run, ht] using ih t hPt

/-- Settles O44, by induction on the number of steps, with `step_legal` for each. -/
theorem legalProgramsNeverStop : Obligations.LegalProgramsNeverStop := fun k =>
  run_of_step (M := core) (fun _ => step_legal) k

end Sys2Proof.Machine

/-! PROOFS of the family `70_reset_and_hazards`: what `RST` leaves alone. -/

namespace Sys2Proof.Machine

/-- Settles O14: no operation writes an input port or the schedule, and the frame of `resetRegisters`
holds the results and the published data. -/
theorem rstLeavesPortsAndSchedule : Obligations.RstLeavesPortsAndSchedule := by
  intro s
  have hexec : exec .rst s = .next (resetRegisters cfg s) := exec_eq_next.2 ⟨rfl, rfl⟩
  obtain ⟨hports, hschedule⟩ := effect_ports_schedule .rst s
  obtain ⟨-, -, -, -, houtL, houtR, hpchg, hpubData, -⟩ := resetRegisters_frame cfg s
  exact ⟨_, hexec, hports, hschedule, houtL, houtR, hpchg, hpubData⟩

end Sys2Proof.Machine
